-- ==== Sys2Proof/Word.lean ====
section
/-!
DEFINITION. The words of the block: command and response words are 32-bit units on a channel (R34, R50, R62),
everything on the bus is a byte, a device address has 7 bits and a register address 16 (R30). All are unsigned (R6).
-/

namespace Sys2Proof

/-- A command or response word (R50, R62). -/
abbrev Word := BitVec 32

/-- A byte on the bus (R30). -/
abbrev Byte := BitVec 8

/-- A 7-bit I2C device address (R11, R30). -/
abbrev DevAddr := BitVec 7

/-- A 16-bit register address of the `REG16` convention (R30, R33). -/
abbrev RegAddr := BitVec 16

end Sys2Proof
end

