-- ==== Sys2Proof/Config.lean ====
section
/-!
DEFINITION. The parameters of the block (R5), each a field of the configuration: the number of requester ports, the per-port
configuration inputs, the two control bytes the spec leaves open, the word width, the length limits, the transport's error
codes. `ARB_POLICY`, which R5 leaves open too, is the argument of the gate's turn (log entry 9).
-/

namespace Sys2Proof

/-- A requester port, by its number (R5, D3). A configuration says how many there are; log entry 14. -/
abbrev Port := Nat

/-- Port 0, the display driver's (R5, D3). -/
abbrev Port.p0 : Port := 0

/-- Port 1, the range sensor driver's (R5, D3). -/
abbrev Port.p1 : Port := 1

/-- One value per port, for the registers and channels the spec writes `X[r]`: the values of ports 0, 1 and so on. A port past
the end of the list has the type's default value. -/
structure PerPort (α : Type) where
  values : List α
  deriving DecidableEq, Repr

/-- The value `v` at each of the first `n` ports. -/
def PerPort.all {α : Type} (n : Nat) (v : α) : PerPort α := ⟨List.replicate n v⟩

/-- `X[r]`. -/
def PerPort.get {α : Type} [Inhabited α] (x : PerPort α) (r : Port) : α := x.values.getD r default

/-- The list with `v` at position `r`, lengthened with default values where it is too short. -/
def PerPort.put {α : Type} [Inhabited α] : List α → Port → α → List α
  | [], 0, v => [v]
  | [], r + 1, v => default :: put [] r v
  | _ :: xs, 0, v => v :: xs
  | x :: xs, r + 1, v => x :: put xs r v

/-- `X[r] <- v`. -/
def PerPort.set {α : Type} [Inhabited α] (x : PerPort α) (r : Port) (v : α) : PerPort α := ⟨PerPort.put x.values r v⟩

/-- The function `f` at each port. -/
def PerPort.map {α β : Type} (f : α → β) (x : PerPort α) : PerPort β := ⟨x.values.map f⟩

/-- The addressing convention of the device class behind a port (R12). -/
inductive Convention where
  | ctrl8
  | reg16
  deriving DecidableEq, Repr, Inhabited

/-- The parameters of R5, constant from reset on (R11, R12, R24, R137): no command writes them.
DESIGN CHOICE, log entry 7: they travel with the state, so that a statement about every state is a statement about every
configuration. -/
structure Config where
  /-- `N_REQ`, the number of requester ports (R5, R10). -/
  nReq : Nat
  /-- `DEV_ADDR[r]` (R11). -/
  devAddr : PerPort DevAddr
  /-- `CONV[r]` (R12). -/
  conv : PerPort Convention
  /-- `CTRL_COMMAND`, the control byte that marks a command payload (R5, R100). -/
  ctrlCommand : Byte
  /-- `CTRL_DATA`, the control byte that marks a data payload (R5, R101). -/
  ctrlData : Byte
  /-- `BUS_CLOCK_HZ`, a parameter of the transport; no rule of the block depends on it (R5, R153). -/
  busClockHz : Nat
  /-- The command word width; the encodings of R50 to R62 are given for 32 (R5, D4). Log entry 27. -/
  wordBits : Nat
  /-- The longest write payload of `BUS_WRITE` and `CTRL_WRITE_*`, the range of `LEN` (R5, R37, D15). Log entry 27. -/
  maxLen : Nat
  /-- The longest write part of `BUS_WRITE_READ`, the range of `WLEN` (R5, R37, D15). Log entry 27. -/
  maxWlen : Nat
  /-- The longest read part of `BUS_WRITE_READ`, the range of `RLEN` (R5, R37, D15). Log entry 27. -/
  maxRlen : Nat
  /-- The last transport error code; the first is 1, because 0 is success (R5, R110, R116). -/
  errLast : Nat
  /-- The code named `ERR_NACK` (R5, R110). -/
  errNack : BitVec 7
  /-- The code named `ERR_ARB_LOST` (R5, R110). -/
  errArbLost : BitVec 7
  /-- The code named `ERR_TIMEOUT` (R5, R110). -/
  errTimeout : BitVec 7
  deriving DecidableEq, Repr

/-- The free value of `CTRL_COMMAND`: the spec leaves it open (R5, U11, D16). Log entry 8. -/
opaque Config.freeCtrlCommand : Byte

/-- The free distance, less one, from `CTRL_COMMAND` to `CTRL_DATA`: the spec leaves `CTRL_DATA` open but for being
another byte than `CTRL_COMMAND` (R5, U11, D16). Every pair of distinct bytes is some pair of the two free values.
Log entry 8. -/
opaque Config.freeCtrlGap : Fin 255

/-- The free value of `CTRL_DATA`. Log entry 8. -/
def Config.freeCtrlData : Byte :=
  Config.freeCtrlCommand + BitVec.ofNat 8 (Config.freeCtrlGap.val + 1)

/-- The configuration of R5: the display at 0x3C with the control-byte convention behind port 0, the range sensor at 0x29
with the 16-bit register convention behind port 1, the control bytes open, every other parameter at R5's value. -/
def Config.standard : Config where
  nReq := 2
  devAddr := ⟨[0x3C#7, 0x29#7]⟩
  conv := ⟨[.ctrl8, .reg16]⟩
  ctrlCommand := Config.freeCtrlCommand
  ctrlData := Config.freeCtrlData
  busClockHz := 400000
  wordBits := 32
  maxLen := 65535
  maxWlen := 255
  maxRlen := 255
  errLast := 127
  errNack := 1#7
  errArbLost := 2#7
  errTimeout := 3#7

/-- The one condition on the open parameters: the control bytes are distinguishing (R5, R101). -/
abbrev Config.Distinguishing (c : Config) : Prop := c.ctrlCommand ≠ c.ctrlData

/-- The configuration has port `r`: the ports are numbered from 0 to `N_REQ - 1` (R5, R10). -/
def Config.hasPort (c : Config) (r : Port) : Bool := decide (r < c.nReq)

/-- How many bits a port number takes, `ceil(log2(N_REQ))` (R14, R17). -/
def Config.portWidth (c : Config) : Nat := if c.nReq ≤ 1 then 0 else Nat.log2 (c.nReq - 1) + 1

/-- The code is in the transport's error code space (R5, R88, R110). -/
def Config.isError (c : Config) (e : BitVec 7) : Bool := decide (1 ≤ e.toNat ∧ e.toNat ≤ c.errLast)

end Sys2Proof
end

