-- ==== Sys2Proof/Syntax.lean ====
section
/-!
DEFINITION. The command set BAF-1 (R50, R51): one constructor per row of spec/opcode_table.json, with the operands of
its rule and its payload as a byte list. The port is not in a command: it is the channel the command arrives on (R50).
-/

namespace Sys2Proof

/-- A command of BAF-1 (R50). -/
inductive Instr where
  /-- `ACQUIRE` (R71). -/
  | acquire
  /-- `RELEASE` (R73). -/
  | release
  /-- `BUS_WRITE addr7, bytes` (R81). -/
  | busWrite (addr : DevAddr) (bytes : List Byte)
  /-- `BUS_WRITE_READ addr7, wbytes, rlen` (R82). -/
  | busWriteRead (addr : DevAddr) (wbytes : List Byte) (rlen : Byte)
  /-- `REG16_WRITE reg, d` (R97). -/
  | reg16Write (reg : RegAddr) (data : Byte)
  /-- `REG16_READ reg` (R98). -/
  | reg16Read (reg : RegAddr)
  /-- `CTRL_WRITE_CMD p` (R100). -/
  | ctrlWriteCmd (payload : List Byte)
  /-- `CTRL_WRITE_DATA p` (R101). -/
  | ctrlWriteData (payload : List Byte)
  deriving DecidableEq, Repr

/-- The mnemonics, one per row of the opcode table (R57). -/
inductive Opcode where
  | acquire
  | release
  | busWrite
  | busWriteRead
  | reg16Write
  | reg16Read
  | ctrlWriteCmd
  | ctrlWriteData
  deriving DecidableEq, Repr

/-- The row of the opcode table a command belongs to (R57). -/
def Instr.opcode : Instr → Opcode
  | .acquire => .acquire
  | .release => .release
  | .busWrite _ _ => .busWrite
  | .busWriteRead _ _ _ => .busWriteRead
  | .reg16Write _ _ => .reg16Write
  | .reg16Read _ => .reg16Read
  | .ctrlWriteCmd _ => .ctrlWriteCmd
  | .ctrlWriteData _ => .ctrlWriteData

/-- The payload byte list of a command, empty for formats G and R (R50, R60). -/
def Instr.payload : Instr → List Byte
  | .busWrite _ bytes => bytes
  | .busWriteRead _ wbytes _ => wbytes
  | .ctrlWriteCmd p => p
  | .ctrlWriteData p => p
  | .acquire => []
  | .release => []
  | .reg16Write _ _ => []
  | .reg16Read _ => []

end Sys2Proof
end

