-- ==== Sys2Proof/WellFormed.lean ====
section
/-!
DEFINITION. Which commands have an encoding: the payload's length and the read length are within the limits of R5, which are the
ranges of the header's length fields (R53, R54, R56, D15). `WLEN = 0` and `RLEN = 0` are encodable, and are refused when
presented (R54, R115), so they are well-formed here.
-/

namespace Sys2Proof

/-- The largest payload of a command of the row (R5, R37). -/
def Config.maxPayload (c : Config) : Opcode → Nat
  | .busWrite => c.maxLen
  | .busWriteRead => c.maxWlen
  | .ctrlWriteCmd => c.maxLen
  | .ctrlWriteData => c.maxLen
  | .acquire => 0
  | .release => 0
  | .reg16Write => 0
  | .reg16Read => 0

/-- The number of bytes a command reads from the bus (R95). -/
def Instr.readLength : Instr → Nat
  | .busWriteRead _ _ rlen => rlen.toNat
  | .reg16Read _ => 1
  | .acquire => 0
  | .release => 0
  | .busWrite _ _ => 0
  | .reg16Write _ _ => 0
  | .ctrlWriteCmd _ => 0
  | .ctrlWriteData _ => 0

/-- The command is within the length limits of the configuration (R5, R37). -/
def Config.admits (c : Config) (i : Instr) : Bool :=
  decide (i.payload.length ≤ c.maxPayload i.opcode) && decide (i.readLength ≤ c.maxRlen)

/-- The command has an encoding: it is within the limits of R5. -/
def Instr.wf (i : Instr) : Bool := Config.standard.admits i

end Sys2Proof
end

