-- ==== Sys2Proof/Decode.lean ====
section
/-!
DEFINITION. Decoding the words of a command channel, and the encoder (R50 to R61, spec/opcode_table.json). Decoding is total:
it answers a command and the rest of the channel, an illegal encoding by name with the words it consumes, or that the
channel does not hold a whole command yet.
-/

namespace Sys2Proof

/-! ## The decoder's table (R57) -/

/-- The mask of the row (R57). -/
def Opcode.mask : Opcode → Word
  | .acquire => 0xFFFFFFFF#32
  | .release => 0xFFFFFFFF#32
  | .busWrite => 0xF80F0000#32
  | .busWriteRead => 0xF80F0000#32
  | .reg16Write => 0xFF000000#32
  | .reg16Read => 0xFF0000FF#32
  | .ctrlWriteCmd => 0xFFFF0000#32
  | .ctrlWriteData => 0xFFFF0000#32

/-- The match value of the row (R57). -/
def Opcode.pattern : Opcode → Word
  | .acquire => 0x10000000#32
  | .release => 0x20000000#32
  | .busWrite => 0x30000000#32
  | .busWriteRead => 0x40000000#32
  | .reg16Write => 0x50000000#32
  | .reg16Read => 0x60000000#32
  | .ctrlWriteCmd => 0x70000000#32
  | .ctrlWriteData => 0x71000000#32

/-- The rows of the table (R57). -/
def Opcode.all : List Opcode :=
  [.acquire, .release, .busWrite, .busWriteRead, .reg16Write, .reg16Read, .ctrlWriteCmd, .ctrlWriteData]

/-- The header word `w` matches the row: `(w & mask) == match` (R57). -/
def Opcode.matches (o : Opcode) (w : Word) : Bool := (w &&& o.mask) == o.pattern

/-- The row a header word selects; none for an illegal header (R57, R61). -/
def selectRow (w : Word) : Option Opcode := Opcode.all.find? (fun o => o.matches w)

/-! ## The fields of a header word (R53 to R56) -/

/-- Field `ADDR7`, bits 26:20 (R53, R54). -/
def fieldAddr7 (w : Word) : DevAddr := w.extractLsb' 20 7

/-- Field `LEN`, bits 15:0 (R53, R56). -/
def fieldLen (w : Word) : BitVec 16 := w.extractLsb' 0 16

/-- Field `WLEN`, bits 15:8 (R54). -/
def fieldWlen (w : Word) : Byte := w.extractLsb' 8 8

/-- Field `RLEN`, bits 7:0 (R54). -/
def fieldRlen (w : Word) : Byte := w.extractLsb' 0 8

/-- Field `REGADDR`, bits 23:8 (R55). -/
def fieldRegAddr (w : Word) : RegAddr := w.extractLsb' 8 16

/-- Field `DATA`, bits 7:0 (R55). -/
def fieldData (w : Word) : Byte := w.extractLsb' 0 8

/-- How many payload words a header of the row announces (R59). -/
def Opcode.payloadWords (o : Opcode) (w : Word) : Nat :=
  match o with
  | .busWrite => (fieldLen w).toNat
  | .busWriteRead => (fieldWlen w).toNat
  | .ctrlWriteCmd => (fieldLen w).toNat
  | .ctrlWriteData => (fieldLen w).toNat
  | .acquire => 0
  | .release => 0
  | .reg16Write => 0
  | .reg16Read => 0

/-- The command of the row, with the operands of header `w` and the payload bytes. Operands are taken unsigned, with no
scaling, shift or sign extension (R60). -/
def Opcode.build (o : Opcode) (w : Word) (bytes : List Byte) : Instr :=
  match o with
  | .acquire => .acquire
  | .release => .release
  | .busWrite => .busWrite (fieldAddr7 w) bytes
  | .busWriteRead => .busWriteRead (fieldAddr7 w) bytes (fieldRlen w)
  | .reg16Write => .reg16Write (fieldRegAddr w) (fieldData w)
  | .reg16Read => .reg16Read (fieldRegAddr w)
  | .ctrlWriteCmd => .ctrlWriteCmd bytes
  | .ctrlWriteData => .ctrlWriteData bytes

/-! ## Payload words (R58) -/

/-- A payload word carries its byte in bits 7:0 and is legal when bits 31:8 are 0 (R58). -/
def payloadLegal (w : Word) : Bool := w.extractLsb' 8 24 == 0#24

/-- The byte of a payload word (R58). -/
def payloadByte (w : Word) : Byte := w.extractLsb' 0 8

/-- The payload word of a byte (R58). -/
def payloadWord (b : Byte) : Word := b.zeroExtend 32

/-- At least `n` words stand on the channel. -/
def hasWords : Nat → List Word → Bool
  | 0, _ => true
  | _ + 1, [] => false
  | n + 1, _ :: ws => hasWords n ws

/-! ## Decoding -/

/-- Why an encoding is illegal (R61). -/
inductive Illegal where
  /-- The header word matches no row (R61 a). -/
  | header
  /-- A payload word of a matched command has a non-zero bit in 31:8 (R61 b). -/
  | payload
  deriving DecidableEq, Repr

/-- What stands at the front of a command channel. -/
inductive Decoded where
  /-- A command, and the words after it. -/
  | instr (i : Instr) (rest : List Word)
  /-- An illegal encoding: why, the words it consumes, and the words after them (R61). -/
  | illegal (why : Illegal) (words : List Word) (rest : List Word)
  /-- Not a whole command: the channel is empty, or fewer words stand on it than the header announces. Log entry 2. -/
  | incomplete
  deriving DecidableEq, Repr

/-- The command at the front of a channel whose header word `h` is of row `o` (R58, R59, R61). -/
def decodeRow (o : Opcode) (h : Word) (ws : List Word) : Decoded :=
  if hasWords (o.payloadWords h) ws then
    if (ws.take (o.payloadWords h)).all payloadLegal then
      .instr (o.build h ((ws.take (o.payloadWords h)).map payloadByte)) (ws.drop (o.payloadWords h))
    else .illegal .payload (h :: ws.take (o.payloadWords h)) (ws.drop (o.payloadWords h))
  else .incomplete

/-- The command at the front of a channel (R57 to R61). -/
def decode : List Word → Decoded
  | [] => .incomplete
  | h :: ws =>
    match selectRow h with
    | none => .illegal .header [h] ws
    | some o => decodeRow o h ws

/-! ## Encoding (R52 to R56, R58) -/

/-- The header word of a command, by the formulas of R52 to R56. -/
def Instr.header : Instr → Word
  | .acquire => 0x10000000#32
  | .release => 0x20000000#32
  | .busWrite addr bytes => 0x30000000#32 ||| addr.zeroExtend 32 <<< 20 ||| (BitVec.ofNat 16 bytes.length).zeroExtend 32
  | .busWriteRead addr wbytes rlen =>
    0x40000000#32 ||| addr.zeroExtend 32 <<< 20 ||| (BitVec.ofNat 8 wbytes.length).zeroExtend 32 <<< 8 |||
      rlen.zeroExtend 32
  | .reg16Write reg data => 0x50000000#32 ||| reg.zeroExtend 32 <<< 8 ||| data.zeroExtend 32
  | .reg16Read reg => 0x60000000#32 ||| reg.zeroExtend 32 <<< 8
  | .ctrlWriteCmd p => 0x70000000#32 ||| (BitVec.ofNat 16 p.length).zeroExtend 32
  | .ctrlWriteData p => 0x71000000#32 ||| (BitVec.ofNat 16 p.length).zeroExtend 32

/-- The words of a command: the header, then one word per payload byte in bus order (R50, R58). -/
def encode (i : Instr) : List Word := i.header :: i.payload.map payloadWord

/-! ## The opcode table's numbering of an instruction's bits -/

/-- The `n` words of the number `v`, the first word in its least significant bits (R5, R50). -/
def wordsOf : Nat → Nat → List Word
  | 0, _ => []
  | n + 1, v => BitVec.ofNat 32 v :: wordsOf n (v / 2 ^ Config.standard.wordBits)

/-- How many payload words follow a header word: none after an illegal one (R59). -/
def announced (h : Word) : Nat :=
  match selectRow h with
  | none => 0
  | some o => o.payloadWords h

/-- The words of the instruction whose low `nbits` bits are `w` and whose bits above are 0: the header, and as many
payload words as it announces (R59). -/
def tableWords (nbits w : Nat) : List Word :=
  (wordsOf ((nbits + Config.standard.wordBits - 1) / Config.standard.wordBits) (w % 2 ^ nbits)
      ++ List.replicate (announced (BitVec.ofNat 32 (w % 2 ^ nbits))) 0#32).take
    (1 + announced (BitVec.ofNat 32 (w % 2 ^ nbits)))

/-- The instruction the decoder reads from those words. -/
def decodeTableWord (nbits w : Nat) : Option Instr :=
  match decode (tableWords nbits w) with
  | .instr i _ => some i
  | .illegal _ _ _ => none
  | .incomplete => none

end Sys2Proof
end

