-- ==== Sys2Proof/Machine/State.lean ====
section
/-!
DEFINITION. The state of the block (R11 to R19, R24, R25), the events of its history (R8), the agents' turns (R10), and
the state after reset (R25, R135). The block has no registers, no program counter and no memory (R16, R17, R30).
-/

namespace Sys2Proof.Machine

/-- `PSTATE[r]`: what a port is waiting for (R15). The value 3 is never reached and is not represented (R15). -/
inductive PState where
  /-- `P_IDLE`: no command outstanding; the port accepts a command. -/
  | idle
  /-- `P_ACQ_WAIT`: an ACQUIRE was accepted and is not yet granted. -/
  | acqWait
  /-- `P_OP`: a bus operation of this port is in the sequencer. -/
  | op
  deriving DecidableEq, Repr, Inhabited

/-- `PHASE`: the phase of the transaction state machine (R16). -/
inductive Phase where
  /-- `IDLE`: no bus operation latched. -/
  | idle
  /-- `FRAME`: an operation is latched, nothing has been sent. -/
  | frame
  /-- `XFER`: the operation was handed to the transport. -/
  | xfer
  /-- `RESP`: the answer is latched, the response not yet delivered. -/
  | resp
  deriving DecidableEq, Repr

/-- A bus operation, as a handle offers it and as the transport is asked for it (R7, R80). -/
inductive BusOp where
  /-- `Write(addr7, bytes)`. -/
  | write (addr : DevAddr) (bytes : List Byte)
  /-- `WriteRead(addr7, wbytes, n)`. -/
  | writeRead (addr : DevAddr) (wbytes : List Byte) (n : Byte)
  deriving DecidableEq, Repr

/-- `CUR.kind` (R17). -/
inductive OpKind where
  | write
  | writeRead
  deriving DecidableEq, Repr

/-- `CUR`, the operation latch (R17). -/
structure Cur where
  /-- `CUR.req`, the port the operation belongs to. -/
  req : Port
  /-- `CUR.kind`. -/
  kind : OpKind
  /-- `CUR.addr`, the device address. -/
  addr : DevAddr
  /-- `CUR.wbytes`, the bytes to write in bus order. -/
  wbytes : List Byte
  /-- `CUR.rlen`, the number of bytes to read; 0 for a `write`. -/
  rlen : Byte
  deriving DecidableEq, Repr

/-- An answer of the transport, and the content of `ANS` (R18, R88). -/
inductive Answer where
  /-- `Ok(rbytes)`. -/
  | ok (rbytes : List Byte)
  /-- `Err(e)`, a 7-bit transport error code (R110). -/
  | err (code : BitVec 7)
  deriving DecidableEq, Repr

/-- A command as a port accepts it: one of BAF-1, or an illegal encoding with the words it consumed (R60, R61). -/
inductive Command where
  | legal (i : Instr)
  | illegal (words : List Word)
  deriving DecidableEq, Repr

/-- The events of `HIST` (R8). -/
inductive Event where
  /-- `Cmd(r, c)`: command `c` accepted at port `r`. -/
  | cmd (r : Port) (c : Command)
  /-- `Grant(r)`: the gate was given to port `r`. -/
  | grant (r : Port)
  /-- `Call(r, op)`: `op` handed to the transport on behalf of port `r`. -/
  | call (r : Port) (op : BusOp)
  /-- `Return(a)`: the transport answered `a`. -/
  | ret (a : Answer)
  /-- `Resp(r, status, rbytes)`: response delivered to port `r`. -/
  | resp (r : Port) (status : Byte) (rbytes : List Byte)
  deriving DecidableEq, Repr

/-- The agents that take steps (R10). -/
inductive Agent where
  | requester (r : Port)
  | gate
  | sequencer
  | transport
  deriving DecidableEq, Repr

/-- A turn of an agent (R10): which step is taken next. Which pending port is granted (`ARB_POLICY`, R72) and what the
transport answers (R88) are open, so the turn names them. -/
inductive Move where
  /-- Requester `r` presents the command at the front of its channel (R60). -/
  | present (r : Port)
  /-- The gate grants the pending ACQUIRE of port `r` (R72). -/
  | grant (r : Port)
  /-- The sequencer hands the latched operation to the transport (R87). -/
  | start
  /-- The transport answers `a` (R88). -/
  | answer (a : Answer)
  /-- The sequencer delivers the response (R89). -/
  | finish
  deriving DecidableEq, Repr

/-- Whose turn it is (R10). -/
def Move.agent : Move → Agent
  | .present r => .requester r
  | .grant _ => .gate
  | .start => .sequencer
  | .answer _ => .transport
  | .finish => .sequencer

/-- The state of the block with its channels, its configuration inputs, its history, and the schedule of its agents. -/
@[ext]
structure State where
  /-- The parameters and configuration inputs; no step writes them (R5, R11, R12, R137). Log entry 7. -/
  cfg : Config
  /-- `LOCKED`: a handle is live (R13). -/
  locked : Bool
  /-- `OWNER`: the port whose handle is live; kept while `LOCKED = 0` (R14). -/
  owner : Port
  /-- `PSTATE[r]` (R15). -/
  pstate : PerPort PState
  /-- `PHASE` (R16). -/
  phase : Phase
  /-- `CUR` (R17). -/
  cur : Cur
  /-- `ANS` (R18). -/
  ans : Answer
  /-- `FAULT[r]`, five sticky bits (R19). -/
  fault : PerPort (BitVec 5)
  /-- `HIST`, oldest event first (R8, R25). -/
  hist : List Event
  /-- `CMD[r]`: the words the requester presents, not yet consumed, next word first (R24, R50). Log entry 2. -/
  cmd : PerPort (List Word)
  /-- `RSP[r]`: the words sent to the requester so far, oldest first (R24, R62). Log entry 15. -/
  rsp : PerPort (List Word)
  /-- The model's own: the port whose command is being dispatched, the `r` of `present(r, c)` (R60). Log entry 4. -/
  presenting : Port
  /-- The model's own: the agents' turns, next turn first (R10). An input of the run. Log entry 1. -/
  moves : List Move
  deriving DecidableEq, Repr

/-- Reasons for which the machine would stop with a fault. There is none: the spec gives every command and every agent's
step an effect, a refused command is answered (R120) and a block that waits for ever stays as it is (R90, R144). The
type has no constructor, so no step can end in a fault, which is safe. Log entry 20. -/
inductive Fault
  deriving DecidableEq, Repr

/-- Reasons for which an instruction has no meaning in the model. -/
inductive Refusal where
  /-- Raised by an arm of `exec` whose instruction has no meaning yet; safe. No arm raises it now. -/
  | notModelled (mnemonic : String)
  deriving DecidableEq, Repr

/-- The state after reset (R25, R135): the gate free, both ports idle, no operation latched, no fault bit, no history,
nothing on the channels. DESIGN CHOICE: `CUR` and `ANS`, which R25 leaves unspecified, hold zeros and `Ok []` (log
entries 5 and 6); `presenting` is port 0 (log entry 4); the schedule is empty (log entry 1). -/
def State.reset : State where
  cfg := Config.standard
  locked := false
  owner := .p0
  pstate := .all Config.standard.nReq .idle
  phase := .idle
  cur := { req := .p0, kind := .write, addr := 0#7, wbytes := [], rlen := 0#8 }
  ans := .ok []
  fault := .all Config.standard.nReq 0#5
  hist := []
  cmd := .all Config.standard.nReq []
  rsp := .all Config.standard.nReq []
  presenting := .p0
  moves := []

end Sys2Proof.Machine
end

