-- ==== Sys2Proof/Machine/Flags.lean ====
section
/-!
DEFINITION. The protocol faults with their `FAULT` bits and status codes (R19, R111 to R116), the transport error codes
(R110), and the encodings of the state the status outputs show (R12 to R16, R24).
-/

namespace Sys2Proof.Machine

/-- The protocol faults (R19, R111 to R115). -/
inductive ProtocolFault where
  /-- `ERR_ILLEGAL` (R111). -/
  | illegal
  /-- `ERR_NOT_OWNER` (R112). -/
  | notOwner
  /-- `ERR_REENTRANT` (R113). -/
  | reentrant
  /-- `ERR_CONV` (R114). -/
  | conv
  /-- `ERR_LEN` (R115). -/
  | len
  deriving DecidableEq, Repr

/-- The `FAULT[r]` bit of the fault (R19). -/
def ProtocolFault.bit : ProtocolFault → Nat
  | .illegal => 0
  | .notOwner => 1
  | .reentrant => 2
  | .conv => 3
  | .len => 4

/-- The value of `FAULT[r]` with the fault's bit alone set. -/
def ProtocolFault.mask (k : ProtocolFault) : BitVec 5 := 1#5 <<< k.bit

/-- The `STATUS` of the refusal (R19, R111 to R116). -/
def ProtocolFault.status : ProtocolFault → Byte
  | .illegal => 0x80#8
  | .notOwner => 0x81#8
  | .reentrant => 0x82#8
  | .conv => 0x83#8
  | .len => 0x84#8

/-- `STATUS` of a command that succeeded (R116). -/
def statusOk : Byte := 0x00#8

/-- `ERR_NACK` (R5, R110). -/
def errNack : BitVec 7 := Config.standard.errNack

/-- `ERR_ARB_LOST` (R5, R110). -/
def errArbLost : BitVec 7 := Config.standard.errArbLost

/-- `ERR_TIMEOUT`, reported by the transport; the block has no timer (R5, R90, R110). -/
def errTimeout : BitVec 7 := Config.standard.errTimeout

/-- The kinds of transport error the source names; every other code passes through without a name (R110). -/
inductive TransportError where
  | nack
  | arbLost
  | timeout
  | unnamed
  deriving DecidableEq, Repr

/-- The kind a code stands for (R5, R110); none for a value outside the error code space. The block itself passes every code
on unchanged. -/
def transportError (cfg : Config) (e : BitVec 7) : Option TransportError :=
  if cfg.isError e then
    some (if e = cfg.errNack then .nack else if e = cfg.errArbLost then .arbLost else if e = cfg.errTimeout then .timeout
      else .unnamed)
  else none

/-- The `STATUS` of a transport error: its code, unchanged (R89, R110). -/
def transportStatus (e : BitVec 7) : Byte := e.zeroExtend 8

/-- What `finish` reports of an answer: the status and the read bytes (R89). -/
def Answer.outcome : Answer → Byte × List Byte
  | .ok rbytes => (statusOk, rbytes)
  | .err e => (transportStatus e, [])

/-- `CONV[r]` as a bit (R12). -/
def convBit : Convention → BitVec 1
  | .ctrl8 => 0#1
  | .reg16 => 1#1

/-- `OWNER` as bits (R14). -/
def portBits (cfg : Config) (r : Port) : BitVec cfg.portWidth := BitVec.ofNat cfg.portWidth r

/-- `PSTATE[r]` as bits (R15). -/
def pstateBits : PState → BitVec 2
  | .idle => 0#2
  | .acqWait => 1#2
  | .op => 2#2

/-- `PHASE` as bits (R16). -/
def phaseBits : Phase → BitVec 2
  | .idle => 0#2
  | .frame => 1#2
  | .xfer => 2#2
  | .resp => 3#2

/-- `CUR.kind` as a bit (R17). -/
def kindBit : OpKind → BitVec 1
  | .write => 0#1
  | .writeRead => 1#1

end Sys2Proof.Machine
end

