-- ==== Sys2Proof/Machine/Operands.lean ====
section
/-!
DEFINITION. The framer (R95, R96): the bytes each bus-operation command puts on the bus, and the primitives of R7 they are
written with.
-/

namespace Sys2Proof.Machine

/-- `hi(a) = a[15:8]` (R7, R96). -/
def hi (a : RegAddr) : Byte := a.extractLsb' 8 8

/-- `lo(a) = a[7:0]` (R7, R96). -/
def lo (a : RegAddr) : Byte := a.extractLsb' 0 8

/-- `MemWrite(addr, 1, v)` at port `r` (R7). -/
def memWrite (cfg : Config) (r : Port) (reg : RegAddr) (v : Byte) : BusOp :=
  .write (cfg.devAddr.get r) [hi reg, lo reg, v]

/-- `MemRead(addr, 1)` at port `r` (R7). -/
def memRead (cfg : Config) (r : Port) (reg : RegAddr) : BusOp :=
  .writeRead (cfg.devAddr.get r) [hi reg, lo reg] 1#8

/-- A control-byte write at port `r`: one leading control byte, then the payload (R95, R100, R101). -/
def ctrlWrite (cfg : Config) (r : Port) (control : Byte) (p : List Byte) : BusOp :=
  .write (cfg.devAddr.get r) (control :: p)

/-- `frame(r, c)`: the bus operation a bus-operation command is framed as; none for the gate commands (R95). -/
def frame (cfg : Config) (r : Port) : Instr → Option BusOp
  | .acquire => none
  | .release => none
  | .busWrite addr bytes => some (.write addr bytes)
  | .busWriteRead addr wbytes rlen => some (.writeRead addr wbytes rlen)
  | .reg16Write reg d => some (memWrite cfg r reg d)
  | .reg16Read reg => some (memRead cfg r reg)
  | .ctrlWriteCmd p => some (ctrlWrite cfg r cfg.ctrlCommand p)
  | .ctrlWriteData p => some (ctrlWrite cfg r cfg.ctrlData p)

/-- The convention a framer command needs at its port; none for the raw commands and the gate (R60 check 4b, R114). -/
def conventionOf : Instr → Option Convention
  | .reg16Write _ _ => some .reg16
  | .reg16Read _ => some .reg16
  | .ctrlWriteCmd _ => some .ctrl8
  | .ctrlWriteData _ => some .ctrl8
  | .busWrite _ _ => none
  | .busWriteRead _ _ _ => none
  | .acquire => none
  | .release => none

/-- A `BUS_WRITE_READ` with an empty write part or an empty read part (R60 check 4c, R115). -/
def emptyPart (wbytes : List Byte) (rlen : Byte) : Bool := wbytes.isEmpty || rlen == 0#8

/-- The bytes an operation writes, in bus order. -/
def BusOp.wbytes : BusOp → List Byte
  | .write _ bytes => bytes
  | .writeRead _ wbytes _ => wbytes

/-- The operation latch's content for an operation of port `r` (R85). -/
def BusOp.latch (r : Port) : BusOp → Cur
  | .write addr bytes => { req := r, kind := .write, addr := addr, wbytes := bytes, rlen := 0#8 }
  | .writeRead addr wbytes n => { req := r, kind := .writeRead, addr := addr, wbytes := wbytes, rlen := n }

/-- The operation the latch holds (R87). -/
def Cur.op (c : Cur) : BusOp :=
  match c.kind with
  | .write => .write c.addr c.wbytes
  | .writeRead => .writeRead c.addr c.wbytes c.rlen

/-- The shape R88 requires of an answer to the latched operation: a `write` is answered `Ok([])`, a `write_read` as many
bytes as it asked for, and an error code is in the error code space, 1 to 127 (R5). -/
def Cur.fits (c : Cur) (cfg : Config) : Answer → Bool
  | .ok rbytes =>
    match c.kind with
    | .write => rbytes.isEmpty
    | .writeRead => rbytes.length == c.rlen.toNat
  | .err e => cfg.isError e

end Sys2Proof.Machine
end

