-- ==== Sys2Proof/Machine/Ops.lean ====
section
/-!
DEFINITION. The operations the commands and the agents' steps are written with: the ownership test (R124), answering a
command (R62), refusing one (R120, the block's one exception entry; there is no return from it, R123), launching a bus
operation (R85), accepting a command (R60), and the status outputs (R24, R128).
-/

namespace Sys2Proof.Machine

/-- Port `r` is owner: its handle is live (R70, R124). -/
def State.isOwner (s : State) (r : Port) : Bool := s.locked && s.owner == r

/-- `S.PSTATE[r] <- p`. -/
def State.setPstate (s : State) (r : Port) (p : PState) : State := { s with pstate := s.pstate.set r p }

/-- `S.LOCKED <- b`. -/
def State.setLocked (s : State) (b : Bool) : State := { s with locked := b }

/-- `S.OWNER <- r`. -/
def State.setOwner (s : State) (r : Port) : State := { s with owner := r }

/-- `PHASE <- p` (R7, R84). -/
def State.setPhase (s : State) (p : Phase) : State := { s with phase := p }

/-- `S.CUR <- c`. -/
def State.setCur (s : State) (c : Cur) : State := { s with cur := c }

/-- `S.ANS <- a`. -/
def State.setAns (s : State) (a : Answer) : State := { s with ans := a }

/-- `append e to HIST` (R8). -/
def State.log (s : State) (e : Event) : State := { s with hist := s.hist ++ [e] }

/-- The fault's bit of `S.FAULT[r]` is set; the others stay (R19, R120). -/
def State.setFault (s : State) (r : Port) (k : ProtocolFault) : State :=
  { s with fault := s.fault.set r (s.fault.get r ||| k.mask) }

/-- Words are sent on `RSP[r]`. -/
def State.send (s : State) (r : Port) (ws : List Word) : State := { s with rsp := s.rsp.set r (s.rsp.get r ++ ws) }

/-- The response word: `STATUS` in bits 31:24, 0 in 23:16, `RCOUNT` in 15:0 (R62). -/
def responseWord (status : Byte) (rcount : Nat) : Word :=
  status.zeroExtend 32 <<< 24 ||| (BitVec.ofNat 16 rcount).zeroExtend 32

/-- A read-data word: the byte zero-extended (R62). -/
def readDataWord (b : Byte) : Word := b.zeroExtend 32

/-- The words of a response: the response word, then one read-data word per byte in bus order (R62). -/
def responseWords (status : Byte) (rbytes : List Byte) : List Word :=
  responseWord status rbytes.length :: rbytes.map readDataWord

/-- `respond(r, status, rbytes)` (R62). -/
def State.respond (s : State) (r : Port) (status : Byte) (rbytes : List Byte) : State :=
  (s.send r (responseWords status rbytes)).log (.resp r status rbytes)

/-- `raise <Fault>(r)`, the entry of every protocol fault: the sticky bit is set, the status is answered, nothing else
changes and nothing reaches the bus (R7, R120). -/
def State.raise (s : State) (k : ProtocolFault) (r : Port) : State := (s.setFault r k).respond r k.status []

/-- `launch(r, op)` (R85). -/
def State.launch (s : State) (r : Port) (op : BusOp) : State :=
  ((s.setCur (op.latch r)).setPstate r .op).setPhase .frame

/-- Port `r` has the convention a framer command needs (R60 check 4b). -/
def State.hasConvention (s : State) (r : Port) (need : Option Convention) : Bool :=
  match need with
  | none => true
  | some v => s.cfg.conv.get r == v

/-- A bus-operation command of the presenting port: the checks 4a, 4b and 4c of R60 in their order, and the launch (4d).
`need` is the convention the command is bound to, `badLen` says that it is a `BUS_WRITE_READ` with an empty part. -/
def State.busCommand (s : State) (need : Option Convention) (badLen : Bool) (op : BusOp) : State :=
  if s.isOwner s.presenting then
    if s.hasConvention s.presenting need then
      if badLen then s.raise .len s.presenting else s.launch s.presenting op
    else s.raise .conv s.presenting
  else s.raise .notOwner s.presenting

/-- Port `r` accepts command `c`: all its words are consumed from `CMD[r]`, of which `rest` is left, and `Cmd(r, c)` is
appended to `HIST` (R60). -/
def State.accept (s : State) (r : Port) (c : Command) (rest : List Word) : State :=
  { s.log (.cmd r c) with cmd := s.cmd.set r rest, presenting := r }

/-- The status outputs, as bits; a port number takes `portWidth` (R14, R24, R128). -/
structure StatusOutputs (portWidth : Nat) where
  locked : BitVec 1
  owner : BitVec portWidth
  pstate : PerPort (BitVec 2)
  phase : BitVec 2
  fault : PerPort (BitVec 5)
  deriving DecidableEq, Repr

/-- The present values on the status outputs; reading them changes nothing (R24, R128). -/
def State.statusOutputs (s : State) : StatusOutputs s.cfg.portWidth where
  locked := BitVec.ofBool s.locked
  owner := portBits s.cfg s.owner
  pstate := s.pstate.map pstateBits
  phase := phaseBits s.phase
  fault := s.fault

end Sys2Proof.Machine
end

