-- ==== Sys2Proof/Machine/BusOps.lean ====
section
/-!
DEFINITION. The raw bus operations of a handle (R80 to R82): `BUS_WRITE` and `BUS_WRITE_READ`. They are open to both ports
whatever their convention, and to every device address (R81, R36).
-/

namespace Sys2Proof.Machine

/-- `BUS_WRITE addr7, bytes` (R81); every length is legal, zero among them. -/
def execBusWrite (addr : DevAddr) (bytes : List Byte) (s : State) : Host.Outcome State Fault Refusal :=
  .next (s.busCommand none false (.write addr bytes))

/-- `BUS_WRITE_READ addr7, wbytes, rlen` (R82); an empty part is refused with `ERR_LEN` (R115). -/
def execBusWriteRead (addr : DevAddr) (wbytes : List Byte) (rlen : Byte) (s : State) : Host.Outcome State Fault Refusal :=
  .next (s.busCommand none (emptyPart wbytes rlen) (.writeRead addr wbytes rlen))

end Sys2Proof.Machine
end

