-- ==== Sys2Proof/Machine/Framer.lean ====
section
/-!
DEFINITION. The framer commands (R97 to R101): 16-bit register access for a port of convention `REG16`, control-byte writes
for a port of convention `CTRL8`; at a port of the other convention they are refused with `ERR_CONV` (R102, R114).
-/

namespace Sys2Proof.Machine

/-- `REG16_WRITE reg, d` (R97). -/
def execReg16Write (reg : RegAddr) (d : Byte) (s : State) : Host.Outcome State Fault Refusal :=
  .next (s.busCommand (some .reg16) false (memWrite s.cfg s.presenting reg d))

/-- `REG16_READ reg` (R98). -/
def execReg16Read (reg : RegAddr) (s : State) : Host.Outcome State Fault Refusal :=
  .next (s.busCommand (some .reg16) false (memRead s.cfg s.presenting reg))

/-- `CTRL_WRITE_CMD p` (R100). -/
def execCtrlWriteCmd (p : List Byte) (s : State) : Host.Outcome State Fault Refusal :=
  .next (s.busCommand (some .ctrl8) false (ctrlWrite s.cfg s.presenting s.cfg.ctrlCommand p))

/-- `CTRL_WRITE_DATA p` (R101). -/
def execCtrlWriteData (p : List Byte) (s : State) : Host.Outcome State Fault Refusal :=
  .next (s.busCommand (some .ctrl8) false (ctrlWrite s.cfg s.presenting s.cfg.ctrlData p))

end Sys2Proof.Machine
end

