-- ==== Sys2Proof/Machine/Gate.lean ====
section
/-!
DEFINITION. The gate (R70 to R76): the commands `ACQUIRE` and `RELEASE`, and the gate's own step `grant`.
-/

namespace Sys2Proof.Machine

/-- `ACQUIRE` (R71): a re-entrant one is refused (R113); any other becomes pending, with no response yet. -/
def execAcquire (s : State) : Host.Outcome State Fault Refusal :=
  .next (if s.isOwner s.presenting then s.raise .reentrant s.presenting else s.setPstate s.presenting .acqWait)

/-- `RELEASE` (R73): the owner's ends its handle and is answered at once, whatever happened before; anybody else's is
refused (R112) and leaves the gate as it is. -/
def execRelease (s : State) : Host.Outcome State Fault Refusal :=
  .next (if s.isOwner s.presenting then (s.setLocked false).respond s.presenting statusOk []
    else s.raise .notOwner s.presenting)

/-- `grant(r)` is enabled: the gate is free and the ACQUIRE of port `r` is pending (R72). -/
def State.grantEnabled (s : State) (r : Port) : Bool := !s.locked && s.pstate.get r == .acqWait

/-- `grant(r)` (R72). -/
def State.grant (s : State) (r : Port) : State :=
  ((((s.setLocked true).setOwner r).setPstate r .idle).log (.grant r)).respond r statusOk []

end Sys2Proof.Machine
end

