-- ==== Sys2Proof/Machine/Dispatch.lean ====
section
/-!
DEFINITION. The dispatch of a command that the presenting port has accepted (R60, points 2 to 4).
-/

namespace Sys2Proof.Machine

def exec (i : Instr) (s : State) : Host.Outcome State Fault Refusal :=
  match i with
  | .acquire => Sys2Proof.Machine.execAcquire s
  | .release => Sys2Proof.Machine.execRelease s
  | .busWrite addr bytes => Sys2Proof.Machine.execBusWrite addr bytes s
  | .busWriteRead addr wbytes rlen => Sys2Proof.Machine.execBusWriteRead addr wbytes rlen s
  | .reg16Write reg data => Sys2Proof.Machine.execReg16Write reg data s
  | .reg16Read reg => Sys2Proof.Machine.execReg16Read reg s
  | .ctrlWriteCmd payload => Sys2Proof.Machine.execCtrlWriteCmd payload s
  | .ctrlWriteData payload => Sys2Proof.Machine.execCtrlWriteData payload s

end Sys2Proof.Machine
end

