-- ==== Sys2Proof/Machine/Sequencer.lean ====
section
/-!
DEFINITION. The transaction state machine (R83 to R90): the sequencer's steps `start` and `finish` and the transport's
step `answer`. No other step leaves the phase it waits in (R84, R90).
-/

namespace Sys2Proof.Machine

/-- `start` is enabled (R87). -/
def State.startEnabled (s : State) : Bool := s.phase == .frame

/-- `start` (R87): the latched operation is handed to the transport. -/
def State.start (s : State) : State := (s.log (.call s.cur.req s.cur.op)).setPhase .xfer

/-- `answer(a)` is enabled: the block waits for the transport and `a` has the shape the operation requires (R88). -/
def State.answerEnabled (s : State) (a : Answer) : Bool := s.phase == .xfer && s.cur.fits s.cfg a

/-- `answer(a)` (R88). -/
def State.answer (s : State) (a : Answer) : State := ((s.log (.ret a)).setAns a).setPhase .resp

/-- `finish` is enabled (R89). -/
def State.finishEnabled (s : State) : Bool := s.phase == .resp

/-- `finish` (R89): the answer goes to the operation's port, a transport error unchanged; the gate is not touched (R74). -/
def State.finish (s : State) : State :=
  ((s.respond s.cur.req s.ans.outcome.1 s.ans.outcome.2).setPstate s.cur.req .idle).setPhase .idle

end Sys2Proof.Machine
end

