-- ==== Sys2Proof/Machine/Agents.lean ====
section
/-!
DEFINITION. The turns of the agents (R10): a turn whose step is enabled takes it, a turn whose step is not enabled changes
nothing (log entry 3); and how an instruction is placed where the next step takes it from.
-/

namespace Sys2Proof.Machine

/-- Port `r` may present: the block has it, and it is idle (R5, R10, R60). -/
def State.mayPresent (s : State) (r : Port) : Bool := s.cfg.hasPort r && s.pstate.get r == .idle

/-- The turn of requester `r` (R60): when its port is idle and a whole command stands on its channel, the port accepts it
and the command is dispatched; an illegal encoding is refused (R60 point 1, R61). -/
def State.present (s : State) (r : Port) : Host.Outcome State Fault Refusal :=
  if s.mayPresent r then
    match decode (s.cmd.get r) with
    | .instr i rest => exec i (s.accept r (.legal i) rest)
    | .illegal _ words rest => .next ((s.accept r (.illegal words) rest).raise .illegal r)
    | .incomplete => .next s
  else .next s

/-- A turn of an agent (R10). -/
def State.turn (s : State) (m : Move) : Host.Outcome State Fault Refusal :=
  match m with
  | .present r => s.present r
  | .grant r => .next (if s.grantEnabled r then s.grant r else s)
  | .start => .next (if s.startEnabled then s.start else s)
  | .answer a => .next (if s.answerEnabled a then s.answer a else s)
  | .finish => .next (if s.finishEnabled then s.finish else s)

/-- The next turn is taken off the schedule; with none scheduled no agent takes a step. -/
def State.takeTurn (s : State) : Host.Outcome State Fault Refusal :=
  match s.moves with
  | [] => .next s
  | m :: rest => State.turn { s with moves := rest } m

/-- The inputs of a run: the configuration with its parameters, the words the requesters present, and the schedule. -/
def State.withInputs (s : State) (cfg : Config) (cmd : PerPort (List Word)) (moves : List Move) : State :=
  { s with cfg := cfg, cmd := cmd, moves := moves }

/-- Requester `r` puts further words on its channel, behind those that stand there (R24, R50). -/
def State.supply (s : State) (r : Port) (ws : List Word) : State := { s with cmd := s.cmd.set r (s.cmd.get r ++ ws) }

/-- The words `ws` stand at the front of the channel of port `r`, the port accepts a command, and its turn is next. -/
def State.offer (s : State) (r : Port) (ws : List Word) : State :=
  { s with
    cmd := s.cmd.set r (ws ++ s.cmd.get r)
    pstate := s.pstate.set r .idle
    moves := .present r :: s.moves }

end Sys2Proof.Machine
end

