-- ==== Sys2Proof/Machine/Step.lean ====
section
/-!
DEFINITION. One step of the machine: the turn of the agent the schedule names next. There is no program counter (R16): a
command is taken once from its port's channel (R47).
-/

namespace Sys2Proof.Machine

/-- One step. -/
def step (s : State) : Host.Outcome State Fault Refusal := s.takeTurn

/-- `s` with the instruction of the numbered bits `w` at the front of port 0's channel and port 0's turn next. Log entry 21. -/
def State.withFetchWord (s : State) (nbits w : Nat) : State := s.offer .p0 (tableWords nbits w)

end Sys2Proof.Machine
end

