-- ==== Sys2Proof/Laws/Decode.lean ====
section
/-!
SUPPORT. The length limits (R5), and the decoder's parts (R57 to R61): rows that do not match, payload words, the words of a command, and when the
decoder waits.
-/

namespace Sys2Proof

/-- A well-formed command keeps the length limits of R5. -/
theorem payload_le_of_wf {i : Instr} (h : i.wf = true) : i.payload.length ≤ Config.standard.maxPayload i.opcode := by
  simp only [Instr.wf, Config.admits, Bool.and_eq_true, decide_eq_true_eq] at h
  exact h.1

/-- The read length has a field of 8 bits, so the payload's limit alone decides (R5, R54). -/
theorem wf_of_payload_le {i : Instr} (h : i.payload.length ≤ Config.standard.maxPayload i.opcode) : i.wf = true := by
  simp only [Instr.wf, Config.admits, Bool.and_eq_true, decide_eq_true_eq]
  refine ⟨h, ?_⟩
  have : Config.standard.maxRlen = 255 := rfl
  cases i with
  | busWriteRead addr wbytes rlen =>
    have := rlen.isLt
    simp only [Instr.readLength]
    omega
  | acquire | release | busWrite _ _ | reg16Write _ _ | reg16Read _ | ctrlWriteCmd _ | ctrlWriteData _ =>
    simp only [Instr.readLength]
    omega

/-- Two rows differ in a bit that both masks hold: the rows do not overlap (R57). -/
theorem Opcode.rows_differ (o o' : Opcode) (h : o' ≠ o) :
    ∃ j ∈ [24, 28, 29, 30], o.mask.getLsbD j = true ∧ o'.mask.getLsbD j = true ∧
      o.pattern.getLsbD j ≠ o'.pattern.getLsbD j := by
  cases o <;> cases o' <;> first | exact absurd rfl h | decide

/-- A header word that matches a row matches no other (R57). -/
theorem Opcode.matches_unique {o : Opcode} {w : Word} (h : o.matches w = true) (o' : Opcode) :
    o'.matches w = decide (o' = o) := by
  by_cases e : o' = o
  · simp [e, h]
  · obtain ⟨j, -, hj, hj', hd⟩ := Opcode.rows_differ o o' e
    simp only [Opcode.matches, beq_iff_eq] at h
    simp only [e, decide_false, Opcode.matches, beq_eq_false_iff_ne]
    intro h'
    apply hd
    rw [← h, ← h', BitVec.getLsbD_and, BitVec.getLsbD_and, hj, hj']

/-- A header word selects the row it matches (R57). -/
theorem selectRow_of_matches {o : Opcode} {w : Word} (h : o.matches w = true) : selectRow w = some o := by
  have hm := Opcode.matches_unique h
  cases o <;> simp [selectRow, Opcode.all, hm]

/-- The selected row matches (R57). -/
theorem matches_of_selectRow {w : Word} {o : Opcode} (h : selectRow w = some o) : o.matches w = true :=
  List.find?_some (p := fun o : Opcode => o.matches w) h

@[simp] theorem payloadByte_payloadWord (b : Byte) : payloadByte (payloadWord b) = b := by
  apply BitVec.eq_of_getLsbD_eq
  intro i hi
  interval_cases i <;> simp [payloadByte, payloadWord]

@[simp] theorem payloadLegal_payloadWord (b : Byte) : payloadLegal (payloadWord b) = true := by
  simp only [payloadLegal, beq_iff_eq]
  apply BitVec.eq_of_getLsbD_eq
  intro i hi
  interval_cases i <;> simp [payloadWord]

/-- A legal payload word is the word of its byte (R58). -/
theorem payloadWord_payloadByte {w : Word} (h : payloadLegal w = true) : payloadWord (payloadByte w) = w := by
  simp only [payloadLegal, beq_iff_eq] at h
  apply BitVec.eq_of_getLsbD_eq
  intro i hi
  by_cases h8 : i < 8
  · simp [payloadWord, payloadByte, h8, hi]
  · have := congrArg (fun v => v.getLsbD (i - 8)) h
    simp only [BitVec.getLsbD_extractLsb', BitVec.getLsbD_zero] at this
    have e : 8 + (i - 8) = i := by omega
    have hl : i - 8 < 24 := by omega
    rw [e] at this
    simp [hl] at this
    simp [payloadWord, payloadByte, h8, this]

theorem hasWords_eq (n : Nat) (ws : List Word) : hasWords n ws = decide (n ≤ ws.length) := by
  induction n generalizing ws with
  | zero => simp [hasWords]
  | succ n ih =>
    cases ws with
    | nil => simp [hasWords]
    | cons w ws => simp [hasWords, ih]

theorem map_payloadByte_payloadWord (bs : List Byte) : (bs.map payloadWord).map payloadByte = bs := by
  induction bs with
  | nil => rfl
  | cons b bs ih => simpa using ih

theorem map_payloadWord_payloadByte {ws : List Word} (h : ws.all payloadLegal = true) :
    (ws.map payloadByte).map payloadWord = ws := by
  induction ws with
  | nil => rfl
  | cons w ws ih =>
    simp only [List.all_cons, Bool.and_eq_true] at h
    simp only [List.map_cons, payloadWord_payloadByte h.1, ih h.2]

theorem all_payloadLegal_payloadWord (bs : List Byte) : (bs.map payloadWord).all payloadLegal = true := by
  simp

/-- A header of row `o` followed by the payload words of `bs`, as many as it announces, decodes to the row's command
(R58, R59). -/
theorem decodeRow_payload {o : Opcode} {h : Word} {bs : List Byte} (hn : o.payloadWords h = bs.length) (rest : List Word) :
    decodeRow o h (bs.map payloadWord ++ rest) = .instr (o.build h bs) rest := by
  have hl : o.payloadWords h = (bs.map payloadWord).length := by simpa using hn
  unfold decodeRow
  rw [hasWords_eq, hl, List.take_left, List.drop_left, map_payloadByte_payloadWord, all_payloadLegal_payloadWord]
  simp

/-- When a channel decodes to a command: its header is of a row, and the payload words it announces are there and legal. -/
theorem decode_eq_instr {ws rest : List Word} {i : Instr} (h : decode ws = .instr i rest) :
    ∃ w o bs, selectRow w = some o ∧ o.payloadWords w = bs.length ∧ i = o.build w bs ∧
      ws = w :: (bs.map payloadWord ++ rest) := by
  cases ws with
  | nil => simp [decode] at h
  | cons w ws =>
    simp only [decode] at h
    cases ho : selectRow w with
    | none => simp [ho] at h
    | some o =>
      simp only [ho, decodeRow, hasWords_eq, decide_eq_true_eq] at h
      split at h
      next hn =>
        split at h
        next hp =>
          injection h with hi hr
          subst hi hr
          refine ⟨w, o, (ws.take (o.payloadWords w)).map payloadByte, ho, ?_, rfl, ?_⟩
          · simp [hn]
          · rw [map_payloadWord_payloadByte hp, List.take_append_drop]
        · cases h
      · cases h

end Sys2Proof
end

