-- ==== Sys2Proof/Laws/PerInstr.lean ====
section
/-!
SUPPORT. The family of statements about every instruction: the header of a well-formed command is of the command's own row,
announces as many payload words as the payload has bytes, and gives the operands back (R52 to R59).
-/

namespace Sys2Proof.Laws.HeaderRow

/-- The header of a well-formed command stands for it. -/
def Statement (i : Instr) : Prop :=
  i.wf = true → selectRow i.header = some i.opcode ∧ i.opcode.payloadWords i.header = i.payload.length ∧
    i.opcode.build i.header i.payload = i

/-! ## The rows and fields of the header formulas -/

theorem busWrite_row (a : DevAddr) (n : BitVec 16) :
    selectRow (0x30000000#32 ||| a.zeroExtend 32 <<< 20 ||| n.zeroExtend 32) = some .busWrite := by
  apply selectRow_of_matches
  simp only [Opcode.matches, Opcode.mask, Opcode.pattern, beq_iff_eq]
  apply BitVec.eq_of_getLsbD_eq
  intro i hi
  interval_cases i <;> simp

theorem busWrite_fieldAddr7 (a : DevAddr) (n : BitVec 16) :
    fieldAddr7 (0x30000000#32 ||| a.zeroExtend 32 <<< 20 ||| n.zeroExtend 32) = a := by
  unfold fieldAddr7
  apply BitVec.eq_of_getLsbD_eq
  intro i hi
  interval_cases i <;> simp

theorem busWrite_fieldLen (a : DevAddr) (n : BitVec 16) :
    fieldLen (0x30000000#32 ||| a.zeroExtend 32 <<< 20 ||| n.zeroExtend 32) = n := by
  unfold fieldLen
  apply BitVec.eq_of_getLsbD_eq
  intro i hi
  interval_cases i <;> simp

theorem busWriteRead_row (a : DevAddr) (n m : Byte) :
    selectRow (0x40000000#32 ||| a.zeroExtend 32 <<< 20 ||| n.zeroExtend 32 <<< 8 ||| m.zeroExtend 32) = some .busWriteRead := by
  apply selectRow_of_matches
  simp only [Opcode.matches, Opcode.mask, Opcode.pattern, beq_iff_eq]
  apply BitVec.eq_of_getLsbD_eq
  intro i hi
  interval_cases i <;> simp

theorem busWriteRead_fieldAddr7 (a : DevAddr) (n m : Byte) :
    fieldAddr7 (0x40000000#32 ||| a.zeroExtend 32 <<< 20 ||| n.zeroExtend 32 <<< 8 ||| m.zeroExtend 32) = a := by
  unfold fieldAddr7
  apply BitVec.eq_of_getLsbD_eq
  intro i hi
  interval_cases i <;> simp

theorem busWriteRead_fieldWlen (a : DevAddr) (n m : Byte) :
    fieldWlen (0x40000000#32 ||| a.zeroExtend 32 <<< 20 ||| n.zeroExtend 32 <<< 8 ||| m.zeroExtend 32) = n := by
  unfold fieldWlen
  apply BitVec.eq_of_getLsbD_eq
  intro i hi
  interval_cases i <;> simp

theorem busWriteRead_fieldRlen (a : DevAddr) (n m : Byte) :
    fieldRlen (0x40000000#32 ||| a.zeroExtend 32 <<< 20 ||| n.zeroExtend 32 <<< 8 ||| m.zeroExtend 32) = m := by
  unfold fieldRlen
  apply BitVec.eq_of_getLsbD_eq
  intro i hi
  interval_cases i <;> simp

theorem reg16Write_row (g : RegAddr) (d : Byte) :
    selectRow (0x50000000#32 ||| g.zeroExtend 32 <<< 8 ||| d.zeroExtend 32) = some .reg16Write := by
  apply selectRow_of_matches
  simp only [Opcode.matches, Opcode.mask, Opcode.pattern, beq_iff_eq]
  apply BitVec.eq_of_getLsbD_eq
  intro i hi
  interval_cases i <;> simp

theorem reg16Write_fieldRegAddr (g : RegAddr) (d : Byte) :
    fieldRegAddr (0x50000000#32 ||| g.zeroExtend 32 <<< 8 ||| d.zeroExtend 32) = g := by
  unfold fieldRegAddr
  apply BitVec.eq_of_getLsbD_eq
  intro i hi
  interval_cases i <;> simp

theorem reg16Write_fieldData (g : RegAddr) (d : Byte) :
    fieldData (0x50000000#32 ||| g.zeroExtend 32 <<< 8 ||| d.zeroExtend 32) = d := by
  unfold fieldData
  apply BitVec.eq_of_getLsbD_eq
  intro i hi
  interval_cases i <;> simp

theorem reg16Read_row (g : RegAddr) :
    selectRow (0x60000000#32 ||| g.zeroExtend 32 <<< 8) = some .reg16Read := by
  apply selectRow_of_matches
  simp only [Opcode.matches, Opcode.mask, Opcode.pattern, beq_iff_eq]
  apply BitVec.eq_of_getLsbD_eq
  intro i hi
  interval_cases i <;> simp

theorem reg16Read_fieldRegAddr (g : RegAddr) :
    fieldRegAddr (0x60000000#32 ||| g.zeroExtend 32 <<< 8) = g := by
  unfold fieldRegAddr
  apply BitVec.eq_of_getLsbD_eq
  intro i hi
  interval_cases i <;> simp

theorem ctrlWriteCmd_row (n : BitVec 16) :
    selectRow (0x70000000#32 ||| n.zeroExtend 32) = some .ctrlWriteCmd := by
  apply selectRow_of_matches
  simp only [Opcode.matches, Opcode.mask, Opcode.pattern, beq_iff_eq]
  apply BitVec.eq_of_getLsbD_eq
  intro i hi
  interval_cases i <;> simp

theorem ctrlWriteCmd_fieldLen (n : BitVec 16) :
    fieldLen (0x70000000#32 ||| n.zeroExtend 32) = n := by
  unfold fieldLen
  apply BitVec.eq_of_getLsbD_eq
  intro i hi
  interval_cases i <;> simp

theorem ctrlWriteData_row (n : BitVec 16) :
    selectRow (0x71000000#32 ||| n.zeroExtend 32) = some .ctrlWriteData := by
  apply selectRow_of_matches
  simp only [Opcode.matches, Opcode.mask, Opcode.pattern, beq_iff_eq]
  apply BitVec.eq_of_getLsbD_eq
  intro i hi
  interval_cases i <;> simp

theorem ctrlWriteData_fieldLen (n : BitVec 16) :
    fieldLen (0x71000000#32 ||| n.zeroExtend 32) = n := by
  unfold fieldLen
  apply BitVec.eq_of_getLsbD_eq
  intro i hi
  interval_cases i <;> simp

/-! ## One lemma per instruction -/

theorem toNat_length {k n : Nat} (h : n < 2 ^ k) : (BitVec.ofNat k n).toNat = n := by
  rw [BitVec.toNat_ofNat, Nat.mod_eq_of_lt h]

theorem acquire : Statement .acquire := fun _ => by decide

theorem release : Statement .release := fun _ => by decide

theorem busWrite (addr : DevAddr) (bytes : List Byte) : Statement (.busWrite addr bytes) := by
  intro hw
  have hl : bytes.length ≤ 65535 := payload_le_of_wf hw
  refine ⟨busWrite_row _ _, ?_, ?_⟩
  · simp only [Instr.opcode, Opcode.payloadWords, Instr.header, busWrite_fieldLen, Instr.payload]
    exact toNat_length (by omega)
  · simp only [Instr.opcode, Opcode.build, Instr.header, busWrite_fieldAddr7, Instr.payload]

theorem busWriteRead (addr : DevAddr) (wbytes : List Byte) (rlen : Byte) :
    Statement (.busWriteRead addr wbytes rlen) := by
  intro hw
  have hl : wbytes.length ≤ 255 := payload_le_of_wf hw
  refine ⟨busWriteRead_row _ _ _, ?_, ?_⟩
  · simp only [Instr.opcode, Opcode.payloadWords, Instr.header, busWriteRead_fieldWlen, Instr.payload]
    exact toNat_length (by omega)
  · simp only [Instr.opcode, Opcode.build, Instr.header, busWriteRead_fieldAddr7, busWriteRead_fieldRlen,
      Instr.payload]

theorem reg16Write (reg : RegAddr) (data : Byte) : Statement (.reg16Write reg data) := fun _ =>
  ⟨reg16Write_row _ _, rfl, by
    simp only [Instr.opcode, Opcode.build, Instr.header, reg16Write_fieldRegAddr, reg16Write_fieldData]⟩

theorem reg16Read (reg : RegAddr) : Statement (.reg16Read reg) := fun _ =>
  ⟨reg16Read_row _, rfl, by simp only [Instr.opcode, Opcode.build, Instr.header, reg16Read_fieldRegAddr]⟩

theorem ctrlWriteCmd (payload : List Byte) : Statement (.ctrlWriteCmd payload) := by
  intro hw
  have hl : payload.length ≤ 65535 := payload_le_of_wf hw
  refine ⟨ctrlWriteCmd_row _, ?_, rfl⟩
  simp only [Instr.opcode, Opcode.payloadWords, Instr.header, ctrlWriteCmd_fieldLen, Instr.payload]
  exact toNat_length (by omega)

theorem ctrlWriteData (payload : List Byte) : Statement (.ctrlWriteData payload) := by
  intro hw
  have hl : payload.length ≤ 65535 := payload_le_of_wf hw
  refine ⟨ctrlWriteData_row _, ?_, rfl⟩
  simp only [Instr.opcode, Opcode.payloadWords, Instr.header, ctrlWriteData_fieldLen, Instr.payload]
  exact toNat_length (by omega)

end Sys2Proof.Laws.HeaderRow
end

