-- ==== Sys2Proof/Laws/State.lean ====
section
/-!
SUPPORT. What each state update does to each field: one lemma per field per update, so that no proof unfolds an update. The
lemmas of a per-port register come first.
-/

namespace Sys2Proof

@[simp] theorem PerPort.get_all {α : Type} [Inhabited α] (n : Nat) (r : Port) : (PerPort.all n (default : α)).get r = default := by
  simp [PerPort.all, PerPort.get, List.getD_eq_getElem?_getD, List.getElem?_replicate]
  split <;> rfl

theorem PerPort.getD_put {α : Type} [Inhabited α] (xs : List α) (r q : Port) (v : α) :
    (PerPort.put xs r v).getD q default = if q = r then v else xs.getD q default := by
  induction r generalizing xs q with
  | zero => cases xs <;> cases q <;> simp [PerPort.put]
  | succ r ih =>
    cases xs with
    | nil =>
      cases q with
      | zero => simp [PerPort.put]
      | succ q => simpa [PerPort.put] using ih [] q
    | cons x xs =>
      cases q with
      | zero => simp [PerPort.put]
      | succ q => simpa [PerPort.put] using ih xs q

/-- Reading a per-port register after a write: the port written has the value, every other port what it had. -/
theorem PerPort.get_set {α : Type} [Inhabited α] (x : PerPort α) (r q : Port) (v : α) :
    (x.set r v).get q = if q = r then v else x.get q := PerPort.getD_put x.values r q v

@[simp] theorem PerPort.get_set_same {α : Type} [Inhabited α] (x : PerPort α) (r : Port) (v : α) : (x.set r v).get r = v := by
  simp [PerPort.get_set]

theorem PerPort.get_set_ne {α : Type} [Inhabited α] (x : PerPort α) {r q : Port} (v : α) (h : q ≠ r) :
    (x.set r v).get q = x.get q := by
  simp [PerPort.get_set, h]

theorem PerPort.put_put {α : Type} [Inhabited α] (xs : List α) (r : Port) (u v : α) :
    PerPort.put (PerPort.put xs r u) r v = PerPort.put xs r v := by
  induction r generalizing xs with
  | zero => cases xs <;> rfl
  | succ r ih => cases xs <;> simp [PerPort.put, ih]

/-- Of two writes at one port the second stays. -/
@[simp] theorem PerPort.set_set {α : Type} [Inhabited α] (x : PerPort α) (r : Port) (u v : α) :
    (x.set r u).set r v = x.set r v := by
  simp [PerPort.set, PerPort.put_put]

theorem PerPort.get_map {α β : Type} [Inhabited α] [Inhabited β] {f : α → β} (hf : f default = default) (x : PerPort α) (r : Port) :
    (x.map f).get r = f (x.get r) := by
  simp only [PerPort.get, PerPort.map, List.getD_eq_getElem?_getD, List.getElem?_map]
  cases x.values[r]? <;> simp [hf]

/-! What a port past the end of a per-port register holds. -/

@[simp] theorem default_words : (default : List Word) = [] := rfl
@[simp] theorem default_faults : (default : BitVec 5) = 0#5 := rfl

namespace Machine

@[simp] theorem PState.default_eq : (default : PState) = .idle := rfl

/-! ## setPstate -/

@[simp] theorem State.setPstate_cfg (s : State) (r : Port) (p : PState) : (s.setPstate r p).cfg = s.cfg := rfl
@[simp] theorem State.setPstate_locked (s : State) (r : Port) (p : PState) :
    (s.setPstate r p).locked = s.locked := rfl
@[simp] theorem State.setPstate_owner (s : State) (r : Port) (p : PState) : (s.setPstate r p).owner = s.owner := rfl
@[simp] theorem State.setPstate_pstate (s : State) (r : Port) (p : PState) :
    (s.setPstate r p).pstate = s.pstate.set r p := rfl
@[simp] theorem State.setPstate_phase (s : State) (r : Port) (p : PState) : (s.setPstate r p).phase = s.phase := rfl
@[simp] theorem State.setPstate_cur (s : State) (r : Port) (p : PState) : (s.setPstate r p).cur = s.cur := rfl
@[simp] theorem State.setPstate_ans (s : State) (r : Port) (p : PState) : (s.setPstate r p).ans = s.ans := rfl
@[simp] theorem State.setPstate_fault (s : State) (r : Port) (p : PState) : (s.setPstate r p).fault = s.fault := rfl
@[simp] theorem State.setPstate_hist (s : State) (r : Port) (p : PState) : (s.setPstate r p).hist = s.hist := rfl
@[simp] theorem State.setPstate_cmd (s : State) (r : Port) (p : PState) : (s.setPstate r p).cmd = s.cmd := rfl
@[simp] theorem State.setPstate_rsp (s : State) (r : Port) (p : PState) : (s.setPstate r p).rsp = s.rsp := rfl
@[simp] theorem State.setPstate_presenting (s : State) (r : Port) (p : PState) :
    (s.setPstate r p).presenting = s.presenting := rfl
@[simp] theorem State.setPstate_moves (s : State) (r : Port) (p : PState) : (s.setPstate r p).moves = s.moves := rfl

/-! ## setLocked -/

@[simp] theorem State.setLocked_cfg (s : State) (b : Bool) : (s.setLocked b).cfg = s.cfg := rfl
@[simp] theorem State.setLocked_locked (s : State) (b : Bool) : (s.setLocked b).locked = b := rfl
@[simp] theorem State.setLocked_owner (s : State) (b : Bool) : (s.setLocked b).owner = s.owner := rfl
@[simp] theorem State.setLocked_pstate (s : State) (b : Bool) : (s.setLocked b).pstate = s.pstate := rfl
@[simp] theorem State.setLocked_phase (s : State) (b : Bool) : (s.setLocked b).phase = s.phase := rfl
@[simp] theorem State.setLocked_cur (s : State) (b : Bool) : (s.setLocked b).cur = s.cur := rfl
@[simp] theorem State.setLocked_ans (s : State) (b : Bool) : (s.setLocked b).ans = s.ans := rfl
@[simp] theorem State.setLocked_fault (s : State) (b : Bool) : (s.setLocked b).fault = s.fault := rfl
@[simp] theorem State.setLocked_hist (s : State) (b : Bool) : (s.setLocked b).hist = s.hist := rfl
@[simp] theorem State.setLocked_cmd (s : State) (b : Bool) : (s.setLocked b).cmd = s.cmd := rfl
@[simp] theorem State.setLocked_rsp (s : State) (b : Bool) : (s.setLocked b).rsp = s.rsp := rfl
@[simp] theorem State.setLocked_presenting (s : State) (b : Bool) : (s.setLocked b).presenting = s.presenting := rfl
@[simp] theorem State.setLocked_moves (s : State) (b : Bool) : (s.setLocked b).moves = s.moves := rfl

/-! ## setOwner -/

@[simp] theorem State.setOwner_cfg (s : State) (r : Port) : (s.setOwner r).cfg = s.cfg := rfl
@[simp] theorem State.setOwner_locked (s : State) (r : Port) : (s.setOwner r).locked = s.locked := rfl
@[simp] theorem State.setOwner_owner (s : State) (r : Port) : (s.setOwner r).owner = r := rfl
@[simp] theorem State.setOwner_pstate (s : State) (r : Port) : (s.setOwner r).pstate = s.pstate := rfl
@[simp] theorem State.setOwner_phase (s : State) (r : Port) : (s.setOwner r).phase = s.phase := rfl
@[simp] theorem State.setOwner_cur (s : State) (r : Port) : (s.setOwner r).cur = s.cur := rfl
@[simp] theorem State.setOwner_ans (s : State) (r : Port) : (s.setOwner r).ans = s.ans := rfl
@[simp] theorem State.setOwner_fault (s : State) (r : Port) : (s.setOwner r).fault = s.fault := rfl
@[simp] theorem State.setOwner_hist (s : State) (r : Port) : (s.setOwner r).hist = s.hist := rfl
@[simp] theorem State.setOwner_cmd (s : State) (r : Port) : (s.setOwner r).cmd = s.cmd := rfl
@[simp] theorem State.setOwner_rsp (s : State) (r : Port) : (s.setOwner r).rsp = s.rsp := rfl
@[simp] theorem State.setOwner_presenting (s : State) (r : Port) : (s.setOwner r).presenting = s.presenting := rfl
@[simp] theorem State.setOwner_moves (s : State) (r : Port) : (s.setOwner r).moves = s.moves := rfl

/-! ## setPhase -/

@[simp] theorem State.setPhase_cfg (s : State) (p : Phase) : (s.setPhase p).cfg = s.cfg := rfl
@[simp] theorem State.setPhase_locked (s : State) (p : Phase) : (s.setPhase p).locked = s.locked := rfl
@[simp] theorem State.setPhase_owner (s : State) (p : Phase) : (s.setPhase p).owner = s.owner := rfl
@[simp] theorem State.setPhase_pstate (s : State) (p : Phase) : (s.setPhase p).pstate = s.pstate := rfl
@[simp] theorem State.setPhase_phase (s : State) (p : Phase) : (s.setPhase p).phase = p := rfl
@[simp] theorem State.setPhase_cur (s : State) (p : Phase) : (s.setPhase p).cur = s.cur := rfl
@[simp] theorem State.setPhase_ans (s : State) (p : Phase) : (s.setPhase p).ans = s.ans := rfl
@[simp] theorem State.setPhase_fault (s : State) (p : Phase) : (s.setPhase p).fault = s.fault := rfl
@[simp] theorem State.setPhase_hist (s : State) (p : Phase) : (s.setPhase p).hist = s.hist := rfl
@[simp] theorem State.setPhase_cmd (s : State) (p : Phase) : (s.setPhase p).cmd = s.cmd := rfl
@[simp] theorem State.setPhase_rsp (s : State) (p : Phase) : (s.setPhase p).rsp = s.rsp := rfl
@[simp] theorem State.setPhase_presenting (s : State) (p : Phase) : (s.setPhase p).presenting = s.presenting := rfl
@[simp] theorem State.setPhase_moves (s : State) (p : Phase) : (s.setPhase p).moves = s.moves := rfl

/-! ## setCur -/

@[simp] theorem State.setCur_cfg (s : State) (c : Cur) : (s.setCur c).cfg = s.cfg := rfl
@[simp] theorem State.setCur_locked (s : State) (c : Cur) : (s.setCur c).locked = s.locked := rfl
@[simp] theorem State.setCur_owner (s : State) (c : Cur) : (s.setCur c).owner = s.owner := rfl
@[simp] theorem State.setCur_pstate (s : State) (c : Cur) : (s.setCur c).pstate = s.pstate := rfl
@[simp] theorem State.setCur_phase (s : State) (c : Cur) : (s.setCur c).phase = s.phase := rfl
@[simp] theorem State.setCur_cur (s : State) (c : Cur) : (s.setCur c).cur = c := rfl
@[simp] theorem State.setCur_ans (s : State) (c : Cur) : (s.setCur c).ans = s.ans := rfl
@[simp] theorem State.setCur_fault (s : State) (c : Cur) : (s.setCur c).fault = s.fault := rfl
@[simp] theorem State.setCur_hist (s : State) (c : Cur) : (s.setCur c).hist = s.hist := rfl
@[simp] theorem State.setCur_cmd (s : State) (c : Cur) : (s.setCur c).cmd = s.cmd := rfl
@[simp] theorem State.setCur_rsp (s : State) (c : Cur) : (s.setCur c).rsp = s.rsp := rfl
@[simp] theorem State.setCur_presenting (s : State) (c : Cur) : (s.setCur c).presenting = s.presenting := rfl
@[simp] theorem State.setCur_moves (s : State) (c : Cur) : (s.setCur c).moves = s.moves := rfl

/-! ## setAns -/

@[simp] theorem State.setAns_cfg (s : State) (a : Answer) : (s.setAns a).cfg = s.cfg := rfl
@[simp] theorem State.setAns_locked (s : State) (a : Answer) : (s.setAns a).locked = s.locked := rfl
@[simp] theorem State.setAns_owner (s : State) (a : Answer) : (s.setAns a).owner = s.owner := rfl
@[simp] theorem State.setAns_pstate (s : State) (a : Answer) : (s.setAns a).pstate = s.pstate := rfl
@[simp] theorem State.setAns_phase (s : State) (a : Answer) : (s.setAns a).phase = s.phase := rfl
@[simp] theorem State.setAns_cur (s : State) (a : Answer) : (s.setAns a).cur = s.cur := rfl
@[simp] theorem State.setAns_ans (s : State) (a : Answer) : (s.setAns a).ans = a := rfl
@[simp] theorem State.setAns_fault (s : State) (a : Answer) : (s.setAns a).fault = s.fault := rfl
@[simp] theorem State.setAns_hist (s : State) (a : Answer) : (s.setAns a).hist = s.hist := rfl
@[simp] theorem State.setAns_cmd (s : State) (a : Answer) : (s.setAns a).cmd = s.cmd := rfl
@[simp] theorem State.setAns_rsp (s : State) (a : Answer) : (s.setAns a).rsp = s.rsp := rfl
@[simp] theorem State.setAns_presenting (s : State) (a : Answer) : (s.setAns a).presenting = s.presenting := rfl
@[simp] theorem State.setAns_moves (s : State) (a : Answer) : (s.setAns a).moves = s.moves := rfl

/-! ## log -/

@[simp] theorem State.log_cfg (s : State) (e : Event) : (s.log e).cfg = s.cfg := rfl
@[simp] theorem State.log_locked (s : State) (e : Event) : (s.log e).locked = s.locked := rfl
@[simp] theorem State.log_owner (s : State) (e : Event) : (s.log e).owner = s.owner := rfl
@[simp] theorem State.log_pstate (s : State) (e : Event) : (s.log e).pstate = s.pstate := rfl
@[simp] theorem State.log_phase (s : State) (e : Event) : (s.log e).phase = s.phase := rfl
@[simp] theorem State.log_cur (s : State) (e : Event) : (s.log e).cur = s.cur := rfl
@[simp] theorem State.log_ans (s : State) (e : Event) : (s.log e).ans = s.ans := rfl
@[simp] theorem State.log_fault (s : State) (e : Event) : (s.log e).fault = s.fault := rfl
@[simp] theorem State.log_hist (s : State) (e : Event) : (s.log e).hist = s.hist ++ [e] := rfl
@[simp] theorem State.log_cmd (s : State) (e : Event) : (s.log e).cmd = s.cmd := rfl
@[simp] theorem State.log_rsp (s : State) (e : Event) : (s.log e).rsp = s.rsp := rfl
@[simp] theorem State.log_presenting (s : State) (e : Event) : (s.log e).presenting = s.presenting := rfl
@[simp] theorem State.log_moves (s : State) (e : Event) : (s.log e).moves = s.moves := rfl

/-! ## setFault -/

@[simp] theorem State.setFault_cfg (s : State) (r : Port) (k : ProtocolFault) : (s.setFault r k).cfg = s.cfg := rfl
@[simp] theorem State.setFault_locked (s : State) (r : Port) (k : ProtocolFault) :
    (s.setFault r k).locked = s.locked := rfl
@[simp] theorem State.setFault_owner (s : State) (r : Port) (k : ProtocolFault) :
    (s.setFault r k).owner = s.owner := rfl
@[simp] theorem State.setFault_pstate (s : State) (r : Port) (k : ProtocolFault) :
    (s.setFault r k).pstate = s.pstate := rfl
@[simp] theorem State.setFault_phase (s : State) (r : Port) (k : ProtocolFault) :
    (s.setFault r k).phase = s.phase := rfl
@[simp] theorem State.setFault_cur (s : State) (r : Port) (k : ProtocolFault) : (s.setFault r k).cur = s.cur := rfl
@[simp] theorem State.setFault_ans (s : State) (r : Port) (k : ProtocolFault) : (s.setFault r k).ans = s.ans := rfl
@[simp] theorem State.setFault_fault (s : State) (r : Port) (k : ProtocolFault) :
    (s.setFault r k).fault = s.fault.set r (s.fault.get r ||| k.mask) := rfl
@[simp] theorem State.setFault_hist (s : State) (r : Port) (k : ProtocolFault) : (s.setFault r k).hist = s.hist := rfl
@[simp] theorem State.setFault_cmd (s : State) (r : Port) (k : ProtocolFault) : (s.setFault r k).cmd = s.cmd := rfl
@[simp] theorem State.setFault_rsp (s : State) (r : Port) (k : ProtocolFault) : (s.setFault r k).rsp = s.rsp := rfl
@[simp] theorem State.setFault_presenting (s : State) (r : Port) (k : ProtocolFault) :
    (s.setFault r k).presenting = s.presenting := rfl
@[simp] theorem State.setFault_moves (s : State) (r : Port) (k : ProtocolFault) :
    (s.setFault r k).moves = s.moves := rfl

/-! ## send -/

@[simp] theorem State.send_cfg (s : State) (r : Port) (ws : List Word) : (s.send r ws).cfg = s.cfg := rfl
@[simp] theorem State.send_locked (s : State) (r : Port) (ws : List Word) : (s.send r ws).locked = s.locked := rfl
@[simp] theorem State.send_owner (s : State) (r : Port) (ws : List Word) : (s.send r ws).owner = s.owner := rfl
@[simp] theorem State.send_pstate (s : State) (r : Port) (ws : List Word) : (s.send r ws).pstate = s.pstate := rfl
@[simp] theorem State.send_phase (s : State) (r : Port) (ws : List Word) : (s.send r ws).phase = s.phase := rfl
@[simp] theorem State.send_cur (s : State) (r : Port) (ws : List Word) : (s.send r ws).cur = s.cur := rfl
@[simp] theorem State.send_ans (s : State) (r : Port) (ws : List Word) : (s.send r ws).ans = s.ans := rfl
@[simp] theorem State.send_fault (s : State) (r : Port) (ws : List Word) : (s.send r ws).fault = s.fault := rfl
@[simp] theorem State.send_hist (s : State) (r : Port) (ws : List Word) : (s.send r ws).hist = s.hist := rfl
@[simp] theorem State.send_cmd (s : State) (r : Port) (ws : List Word) : (s.send r ws).cmd = s.cmd := rfl
@[simp] theorem State.send_rsp (s : State) (r : Port) (ws : List Word) :
    (s.send r ws).rsp = s.rsp.set r (s.rsp.get r ++ ws) := rfl
@[simp] theorem State.send_presenting (s : State) (r : Port) (ws : List Word) :
    (s.send r ws).presenting = s.presenting := rfl
@[simp] theorem State.send_moves (s : State) (r : Port) (ws : List Word) : (s.send r ws).moves = s.moves := rfl

/-! ## respond -/

@[simp] theorem State.respond_cfg (s : State) (r : Port) (st : Byte) (bs : List Byte) :
    (s.respond r st bs).cfg = s.cfg := rfl
@[simp] theorem State.respond_locked (s : State) (r : Port) (st : Byte) (bs : List Byte) :
    (s.respond r st bs).locked = s.locked := rfl
@[simp] theorem State.respond_owner (s : State) (r : Port) (st : Byte) (bs : List Byte) :
    (s.respond r st bs).owner = s.owner := rfl
@[simp] theorem State.respond_pstate (s : State) (r : Port) (st : Byte) (bs : List Byte) :
    (s.respond r st bs).pstate = s.pstate := rfl
@[simp] theorem State.respond_phase (s : State) (r : Port) (st : Byte) (bs : List Byte) :
    (s.respond r st bs).phase = s.phase := rfl
@[simp] theorem State.respond_cur (s : State) (r : Port) (st : Byte) (bs : List Byte) :
    (s.respond r st bs).cur = s.cur := rfl
@[simp] theorem State.respond_ans (s : State) (r : Port) (st : Byte) (bs : List Byte) :
    (s.respond r st bs).ans = s.ans := rfl
@[simp] theorem State.respond_fault (s : State) (r : Port) (st : Byte) (bs : List Byte) :
    (s.respond r st bs).fault = s.fault := rfl
@[simp] theorem State.respond_hist (s : State) (r : Port) (st : Byte) (bs : List Byte) :
    (s.respond r st bs).hist = s.hist ++ [.resp r st bs] := rfl
@[simp] theorem State.respond_cmd (s : State) (r : Port) (st : Byte) (bs : List Byte) :
    (s.respond r st bs).cmd = s.cmd := rfl
@[simp] theorem State.respond_rsp (s : State) (r : Port) (st : Byte) (bs : List Byte) :
    (s.respond r st bs).rsp = s.rsp.set r (s.rsp.get r ++ responseWords st bs) := rfl
@[simp] theorem State.respond_presenting (s : State) (r : Port) (st : Byte) (bs : List Byte) :
    (s.respond r st bs).presenting = s.presenting := rfl
@[simp] theorem State.respond_moves (s : State) (r : Port) (st : Byte) (bs : List Byte) :
    (s.respond r st bs).moves = s.moves := rfl

/-! ## raise -/

@[simp] theorem State.raise_cfg (s : State) (k : ProtocolFault) (r : Port) : (s.raise k r).cfg = s.cfg := rfl
@[simp] theorem State.raise_locked (s : State) (k : ProtocolFault) (r : Port) : (s.raise k r).locked = s.locked := rfl
@[simp] theorem State.raise_owner (s : State) (k : ProtocolFault) (r : Port) : (s.raise k r).owner = s.owner := rfl
@[simp] theorem State.raise_pstate (s : State) (k : ProtocolFault) (r : Port) : (s.raise k r).pstate = s.pstate := rfl
@[simp] theorem State.raise_phase (s : State) (k : ProtocolFault) (r : Port) : (s.raise k r).phase = s.phase := rfl
@[simp] theorem State.raise_cur (s : State) (k : ProtocolFault) (r : Port) : (s.raise k r).cur = s.cur := rfl
@[simp] theorem State.raise_ans (s : State) (k : ProtocolFault) (r : Port) : (s.raise k r).ans = s.ans := rfl
@[simp] theorem State.raise_fault (s : State) (k : ProtocolFault) (r : Port) :
    (s.raise k r).fault = s.fault.set r (s.fault.get r ||| k.mask) := rfl
@[simp] theorem State.raise_hist (s : State) (k : ProtocolFault) (r : Port) :
    (s.raise k r).hist = s.hist ++ [.resp r k.status []] := rfl
@[simp] theorem State.raise_cmd (s : State) (k : ProtocolFault) (r : Port) : (s.raise k r).cmd = s.cmd := rfl
@[simp] theorem State.raise_rsp (s : State) (k : ProtocolFault) (r : Port) :
    (s.raise k r).rsp = s.rsp.set r (s.rsp.get r ++ responseWords k.status []) := rfl
@[simp] theorem State.raise_presenting (s : State) (k : ProtocolFault) (r : Port) :
    (s.raise k r).presenting = s.presenting := rfl
@[simp] theorem State.raise_moves (s : State) (k : ProtocolFault) (r : Port) : (s.raise k r).moves = s.moves := rfl

/-! ## launch -/

@[simp] theorem State.launch_cfg (s : State) (r : Port) (op : BusOp) : (s.launch r op).cfg = s.cfg := rfl
@[simp] theorem State.launch_locked (s : State) (r : Port) (op : BusOp) : (s.launch r op).locked = s.locked := rfl
@[simp] theorem State.launch_owner (s : State) (r : Port) (op : BusOp) : (s.launch r op).owner = s.owner := rfl
@[simp] theorem State.launch_pstate (s : State) (r : Port) (op : BusOp) :
    (s.launch r op).pstate = s.pstate.set r .op := rfl
@[simp] theorem State.launch_phase (s : State) (r : Port) (op : BusOp) : (s.launch r op).phase = .frame := rfl
@[simp] theorem State.launch_cur (s : State) (r : Port) (op : BusOp) : (s.launch r op).cur = op.latch r := rfl
@[simp] theorem State.launch_ans (s : State) (r : Port) (op : BusOp) : (s.launch r op).ans = s.ans := rfl
@[simp] theorem State.launch_fault (s : State) (r : Port) (op : BusOp) : (s.launch r op).fault = s.fault := rfl
@[simp] theorem State.launch_hist (s : State) (r : Port) (op : BusOp) : (s.launch r op).hist = s.hist := rfl
@[simp] theorem State.launch_cmd (s : State) (r : Port) (op : BusOp) : (s.launch r op).cmd = s.cmd := rfl
@[simp] theorem State.launch_rsp (s : State) (r : Port) (op : BusOp) : (s.launch r op).rsp = s.rsp := rfl
@[simp] theorem State.launch_presenting (s : State) (r : Port) (op : BusOp) :
    (s.launch r op).presenting = s.presenting := rfl
@[simp] theorem State.launch_moves (s : State) (r : Port) (op : BusOp) : (s.launch r op).moves = s.moves := rfl

/-! ## accept -/

@[simp] theorem State.accept_cfg (s : State) (r : Port) (c : Command) (rest : List Word) :
    (s.accept r c rest).cfg = s.cfg := rfl
@[simp] theorem State.accept_locked (s : State) (r : Port) (c : Command) (rest : List Word) :
    (s.accept r c rest).locked = s.locked := rfl
@[simp] theorem State.accept_owner (s : State) (r : Port) (c : Command) (rest : List Word) :
    (s.accept r c rest).owner = s.owner := rfl
@[simp] theorem State.accept_pstate (s : State) (r : Port) (c : Command) (rest : List Word) :
    (s.accept r c rest).pstate = s.pstate := rfl
@[simp] theorem State.accept_phase (s : State) (r : Port) (c : Command) (rest : List Word) :
    (s.accept r c rest).phase = s.phase := rfl
@[simp] theorem State.accept_cur (s : State) (r : Port) (c : Command) (rest : List Word) :
    (s.accept r c rest).cur = s.cur := rfl
@[simp] theorem State.accept_ans (s : State) (r : Port) (c : Command) (rest : List Word) :
    (s.accept r c rest).ans = s.ans := rfl
@[simp] theorem State.accept_fault (s : State) (r : Port) (c : Command) (rest : List Word) :
    (s.accept r c rest).fault = s.fault := rfl
@[simp] theorem State.accept_hist (s : State) (r : Port) (c : Command) (rest : List Word) :
    (s.accept r c rest).hist = s.hist ++ [.cmd r c] := rfl
@[simp] theorem State.accept_cmd (s : State) (r : Port) (c : Command) (rest : List Word) :
    (s.accept r c rest).cmd = s.cmd.set r rest := rfl
@[simp] theorem State.accept_rsp (s : State) (r : Port) (c : Command) (rest : List Word) :
    (s.accept r c rest).rsp = s.rsp := rfl
@[simp] theorem State.accept_presenting (s : State) (r : Port) (c : Command) (rest : List Word) :
    (s.accept r c rest).presenting = r := rfl
@[simp] theorem State.accept_moves (s : State) (r : Port) (c : Command) (rest : List Word) :
    (s.accept r c rest).moves = s.moves := rfl

/-! ## grant -/

@[simp] theorem State.grant_cfg (s : State) (r : Port) : (s.grant r).cfg = s.cfg := rfl
@[simp] theorem State.grant_locked (s : State) (r : Port) : (s.grant r).locked = true := rfl
@[simp] theorem State.grant_owner (s : State) (r : Port) : (s.grant r).owner = r := rfl
@[simp] theorem State.grant_pstate (s : State) (r : Port) : (s.grant r).pstate = s.pstate.set r .idle := rfl
@[simp] theorem State.grant_phase (s : State) (r : Port) : (s.grant r).phase = s.phase := rfl
@[simp] theorem State.grant_cur (s : State) (r : Port) : (s.grant r).cur = s.cur := rfl
@[simp] theorem State.grant_ans (s : State) (r : Port) : (s.grant r).ans = s.ans := rfl
@[simp] theorem State.grant_fault (s : State) (r : Port) : (s.grant r).fault = s.fault := rfl
@[simp] theorem State.grant_hist (s : State) (r : Port) :
    (s.grant r).hist = s.hist ++ [.grant r] ++ [.resp r statusOk []] := rfl
@[simp] theorem State.grant_cmd (s : State) (r : Port) : (s.grant r).cmd = s.cmd := rfl
@[simp] theorem State.grant_rsp (s : State) (r : Port) :
    (s.grant r).rsp = s.rsp.set r (s.rsp.get r ++ responseWords statusOk []) := rfl
@[simp] theorem State.grant_presenting (s : State) (r : Port) : (s.grant r).presenting = s.presenting := rfl
@[simp] theorem State.grant_moves (s : State) (r : Port) : (s.grant r).moves = s.moves := rfl

/-! ## supply -/

@[simp] theorem State.supply_cfg (s : State) (r : Port) (ws : List Word) : (s.supply r ws).cfg = s.cfg := rfl
@[simp] theorem State.supply_locked (s : State) (r : Port) (ws : List Word) : (s.supply r ws).locked = s.locked := rfl
@[simp] theorem State.supply_owner (s : State) (r : Port) (ws : List Word) : (s.supply r ws).owner = s.owner := rfl
@[simp] theorem State.supply_pstate (s : State) (r : Port) (ws : List Word) : (s.supply r ws).pstate = s.pstate := rfl
@[simp] theorem State.supply_phase (s : State) (r : Port) (ws : List Word) : (s.supply r ws).phase = s.phase := rfl
@[simp] theorem State.supply_cur (s : State) (r : Port) (ws : List Word) : (s.supply r ws).cur = s.cur := rfl
@[simp] theorem State.supply_ans (s : State) (r : Port) (ws : List Word) : (s.supply r ws).ans = s.ans := rfl
@[simp] theorem State.supply_fault (s : State) (r : Port) (ws : List Word) : (s.supply r ws).fault = s.fault := rfl
@[simp] theorem State.supply_hist (s : State) (r : Port) (ws : List Word) : (s.supply r ws).hist = s.hist := rfl
@[simp] theorem State.supply_cmd (s : State) (r : Port) (ws : List Word) :
    (s.supply r ws).cmd = s.cmd.set r (s.cmd.get r ++ ws) := rfl
@[simp] theorem State.supply_rsp (s : State) (r : Port) (ws : List Word) : (s.supply r ws).rsp = s.rsp := rfl
@[simp] theorem State.supply_presenting (s : State) (r : Port) (ws : List Word) :
    (s.supply r ws).presenting = s.presenting := rfl
@[simp] theorem State.supply_moves (s : State) (r : Port) (ws : List Word) : (s.supply r ws).moves = s.moves := rfl

/-! ## start -/

@[simp] theorem State.start_cfg (s : State) : s.start.cfg = s.cfg := rfl
@[simp] theorem State.start_locked (s : State) : s.start.locked = s.locked := rfl
@[simp] theorem State.start_owner (s : State) : s.start.owner = s.owner := rfl
@[simp] theorem State.start_pstate (s : State) : s.start.pstate = s.pstate := rfl
@[simp] theorem State.start_phase (s : State) : s.start.phase = .xfer := rfl
@[simp] theorem State.start_cur (s : State) : s.start.cur = s.cur := rfl
@[simp] theorem State.start_ans (s : State) : s.start.ans = s.ans := rfl
@[simp] theorem State.start_fault (s : State) : s.start.fault = s.fault := rfl
@[simp] theorem State.start_hist (s : State) : s.start.hist = s.hist ++ [.call s.cur.req s.cur.op] := rfl
@[simp] theorem State.start_cmd (s : State) : s.start.cmd = s.cmd := rfl
@[simp] theorem State.start_rsp (s : State) : s.start.rsp = s.rsp := rfl
@[simp] theorem State.start_presenting (s : State) : s.start.presenting = s.presenting := rfl
@[simp] theorem State.start_moves (s : State) : s.start.moves = s.moves := rfl

/-! ## answer -/

@[simp] theorem State.answer_cfg (s : State) (a : Answer) : (s.answer a).cfg = s.cfg := rfl
@[simp] theorem State.answer_locked (s : State) (a : Answer) : (s.answer a).locked = s.locked := rfl
@[simp] theorem State.answer_owner (s : State) (a : Answer) : (s.answer a).owner = s.owner := rfl
@[simp] theorem State.answer_pstate (s : State) (a : Answer) : (s.answer a).pstate = s.pstate := rfl
@[simp] theorem State.answer_phase (s : State) (a : Answer) : (s.answer a).phase = .resp := rfl
@[simp] theorem State.answer_cur (s : State) (a : Answer) : (s.answer a).cur = s.cur := rfl
@[simp] theorem State.answer_ans (s : State) (a : Answer) : (s.answer a).ans = a := rfl
@[simp] theorem State.answer_fault (s : State) (a : Answer) : (s.answer a).fault = s.fault := rfl
@[simp] theorem State.answer_hist (s : State) (a : Answer) : (s.answer a).hist = s.hist ++ [.ret a] := rfl
@[simp] theorem State.answer_cmd (s : State) (a : Answer) : (s.answer a).cmd = s.cmd := rfl
@[simp] theorem State.answer_rsp (s : State) (a : Answer) : (s.answer a).rsp = s.rsp := rfl
@[simp] theorem State.answer_presenting (s : State) (a : Answer) : (s.answer a).presenting = s.presenting := rfl
@[simp] theorem State.answer_moves (s : State) (a : Answer) : (s.answer a).moves = s.moves := rfl

/-! ## finish -/

@[simp] theorem State.finish_cfg (s : State) : s.finish.cfg = s.cfg := rfl
@[simp] theorem State.finish_locked (s : State) : s.finish.locked = s.locked := rfl
@[simp] theorem State.finish_owner (s : State) : s.finish.owner = s.owner := rfl
@[simp] theorem State.finish_pstate (s : State) : s.finish.pstate = s.pstate.set s.cur.req .idle := rfl
@[simp] theorem State.finish_phase (s : State) : s.finish.phase = .idle := rfl
@[simp] theorem State.finish_cur (s : State) : s.finish.cur = s.cur := rfl
@[simp] theorem State.finish_ans (s : State) : s.finish.ans = s.ans := rfl
@[simp] theorem State.finish_fault (s : State) : s.finish.fault = s.fault := rfl
@[simp] theorem State.finish_hist (s : State) :
    s.finish.hist = s.hist ++ [.resp s.cur.req s.ans.outcome.1 s.ans.outcome.2] := rfl
@[simp] theorem State.finish_cmd (s : State) : s.finish.cmd = s.cmd := rfl
@[simp] theorem State.finish_rsp (s : State) :
    s.finish.rsp = s.rsp.set s.cur.req (s.rsp.get s.cur.req ++ responseWords s.ans.outcome.1 s.ans.outcome.2) := rfl
@[simp] theorem State.finish_presenting (s : State) : s.finish.presenting = s.presenting := rfl
@[simp] theorem State.finish_moves (s : State) : s.finish.moves = s.moves := rfl

end Machine

end Sys2Proof
end

