-- ==== Sys2Proof/Safety.lean ====
section
/-!
DEFINITION. What counts as a good state and a good run (R22, R23), and the views of the history the claims are stated in (R8):
the wire log, the holder of the gate, and the order in which a port's events may come.
-/

namespace Sys2Proof.Machine

/-! ## Quiescence (R22) -/

/-- The block is quiescent: every port idle and no transaction in flight (R22). -/
abbrev State.Quiescent (s : State) : Prop := (∀ r, s.pstate.get r = .idle) ∧ s.phase = .idle

/-- Quiescent and free (R22). -/
abbrev State.QuiescentFree (s : State) : Prop := s.Quiescent ∧ s.locked = false

/-! ## The history (R8) -/

/-- The event is on the wire log: it is a `Call` or a `Return` (R8). -/
def Event.onWire : Event → Bool
  | .call _ _ => true
  | .ret _ => true
  | .cmd _ _ => false
  | .grant _ => false
  | .resp _ _ _ => false

/-- `WIRELOG`: what the bus saw, at transaction granularity (R8). -/
def State.wireLog (s : State) : List Event := s.hist.filter Event.onWire

/-- The event is a command accepted at port `r`. -/
def Event.isCmd (r : Port) : Event → Bool
  | .cmd q _ => q == r
  | .grant _ => false
  | .call _ _ => false
  | .ret _ => false
  | .resp _ _ _ => false

/-- The event is a response delivered to port `r`. -/
def Event.isResp (r : Port) : Event → Bool
  | .resp q _ _ => q == r
  | .cmd _ _ => false
  | .grant _ => false
  | .call _ _ => false
  | .ret _ => false

/-- The event is the response of a command refused with fault `k` at port `r` (R120). -/
def Event.isRefusal (r : Port) (k : ProtocolFault) : Event → Bool
  | .resp q status _ => q == r && status == k.status
  | .cmd _ _ => false
  | .grant _ => false
  | .call _ _ => false
  | .ret _ => false

/-- The words the event sends on `RSP[r]` (R62). -/
def Event.sent (r : Port) : Event → List Word
  | .resp q status rbytes => if q = r then responseWords status rbytes else []
  | .cmd _ _ => []
  | .grant _ => []
  | .call _ _ => []
  | .ret _ => []

/-- A complete run: no words that a requester presented are left on its channel, every command accepted has had its response,
and the block is quiescent (R22, D31). -/
abbrev State.Complete (s : State) : Prop :=
  s.Quiescent ∧ (∀ r, s.cmd.get r = []) ∧ ∀ r, s.hist.countP (Event.isCmd r) = s.hist.countP (Event.isResp r)

/-- A run that has ended cleanly: complete, free, and without a fault bit (R22). -/
abbrev State.Clean (s : State) : Prop := s.Complete ∧ s.locked = false ∧ ∀ r, s.fault.get r = 0#5

/-- Whether a call is outstanding on the bus after a history, `o` saying whether one was before. -/
def callOpen (o : Bool) : List Event → Bool
  | [] => o
  | .call _ _ :: h => callOpen true h
  | .ret _ :: h => callOpen false h
  | .cmd _ _ :: h => callOpen o h
  | .grant _ :: h => callOpen o h
  | .resp _ _ _ :: h => callOpen o h

/-- `Call` and `Return` alternate, a `Call` first unless a call is outstanding already (`o`) (R23 INV4). -/
def alternates (o : Bool) : List Event → Bool
  | [] => true
  | .call _ _ :: h => !o && alternates true h
  | .ret _ :: h => o && alternates false h
  | .cmd _ _ :: h => alternates o h
  | .grant _ :: h => alternates o h
  | .resp _ _ _ :: h => alternates o h

/-- The port whose handle is live after an event, `p` being the one before: a `Grant` begins a handle scope, the accepted
RELEASE of its holder ends it (R70). -/
def Event.holder (p : Option Port) : Event → Option Port
  | .grant r => some r
  | .cmd r c => if c = .legal .release ∧ p = some r then none else p
  | .call _ _ => p
  | .ret _ => p
  | .resp _ _ _ => p

/-- The port whose handle is live after a history, none before it. -/
def holderAfter (h : List Event) : Option Port := h.foldl Event.holder none

/-- Handle scopes do not overlap and every `Call` lies in one of its own port: a `Grant` comes only when no port holds the gate,
so that the scope of a port ends with its own RELEASE, and a `Call` is the holder's; `p` holds the gate at the beginning
(R23 INV5). -/
def callsInScope (p : Option Port) : List Event → Bool
  | [] => true
  | e :: h =>
    (match e with
      | .call r _ => p == some r
      | .grant _ => p == none
      | .cmd _ _ => true
      | .ret _ => true
      | .resp _ _ _ => true) && callsInScope (e.holder p) h

/-! ## The invariants of R23 -/

/-- INV1, INV2 and INV3 (R23): who is in the sequencer, and who waits. -/
structure State.ControlInv (s : State) : Prop where
  inv1 : s.phase ≠ .idle → s.locked = true ∧ s.owner = s.cur.req ∧ s.pstate.get s.cur.req = .op
  inv2 : ∀ r, s.pstate.get r = .op → s.phase ≠ .idle ∧ s.cur.req = r
  inv3 : ∀ r, s.pstate.get r = .acqWait → ¬ (s.locked = true ∧ s.owner = r)

/-- The port whose handle is live (R70). -/
def State.holder (s : State) : Option Port := bif s.locked then some s.owner else none

/-- Only ports the block has are active or own the gate (R5, R10, R14). -/
structure State.PortsExist (s : State) : Prop where
  active : ∀ r, s.pstate.get r ≠ .idle → r < s.cfg.nReq
  owner : s.locked = true → s.owner < s.cfg.nReq

/-- How many commands of a port in this state have had no response yet (R15, R23 INV7). -/
def PState.outstanding : PState → Nat
  | .idle => 0
  | .acqWait => 1
  | .op => 1

/-- INV4, one transaction at a time (R23): calls and returns alternate, and one is open exactly in phase `XFER`. -/
structure State.OneTransaction (s : State) : Prop where
  inv4 : alternates false s.hist = true
  openInXfer : callOpen false s.hist = (s.phase == .xfer)

/-- INV5, no interleaving inside a handle scope (R23): between a `Grant(r)` and the next RELEASE accepted from `r` no other
port is granted the gate and every call is `r`'s; and the gate's registers name the holder. -/
structure State.CallsInScope (s : State) : Prop where
  inv5 : callsInScope none s.hist = true
  holder : holderAfter s.hist = s.holder

/-- INV7 (R23): as many responses as commands while the port is idle, one less while it waits. -/
def State.ResponsesCounted (s : State) : Prop :=
  ∀ r, s.hist.countP (Event.isCmd r) =
    s.hist.countP (Event.isResp r) + (s.pstate.get r).outstanding

/-- The answer latched in phase `RESP` has the shape its operation requires (R18, R88). -/
def State.AnswerFits (s : State) : Prop := s.phase = .resp → s.cur.fits s.cfg s.ans = true

/-- The words on each `RSP[r]` are those of the `Resp` events of the port, in their order (R24, R62). -/
def State.ResponsesSent (s : State) : Prop := ∀ r, s.rsp.get r = s.hist.flatMap (Event.sent r)

/-- Each `FAULT` bit of a port is set exactly when a command of the port was refused with that fault (R19, R120). -/
def State.FaultsRecorded (s : State) : Prop :=
  ∀ r k, (s.fault.get r).getLsbD k.bit = s.hist.any (Event.isRefusal r k)

/-- A response is well-shaped: success with at most 255 bytes, or a transport error or a protocol fault without data; no
status above 0x84 (R62, R116). -/
def Event.WellShaped : Event → Prop
  | .resp _ status rbytes =>
    (status = statusOk ∧ rbytes.length ≤ 255) ∨ (status ≠ statusOk ∧ status.toNat ≤ 0x84 ∧ rbytes = [])
  | .cmd _ _ => True
  | .grant _ => True
  | .call _ _ => True
  | .ret _ => True

/-- Every response of the history is well-shaped (R62, R116). -/
def State.ResponsesWellShaped (s : State) : Prop := ∀ e ∈ s.hist, e.WellShaped

/-! ## The order of a port's events -/

/-- What a port's history says the port is in. -/
inductive PortView where
  /-- No command outstanding. -/
  | ready
  /-- Command `c` was accepted and nothing has come of it yet. -/
  | sent (c : Command)
  /-- The pending ACQUIRE was granted and is not yet answered. -/
  | granted
  /-- The bus operation of command `i` was handed to the transport. -/
  | called (i : Instr)
  /-- The transport answered `a` to the bus operation of command `i`. -/
  | answered (i : Instr) (a : Answer)
  deriving DecidableEq, Repr

/-- A response that ends command `c` at once: a refusal, or the success of a RELEASE (R73, R120). -/
def endsAtOnce (c : Command) (status : Byte) (rbytes : List Byte) : Bool :=
  match c with
  | .illegal _ => status == ProtocolFault.illegal.status && rbytes.isEmpty
  | .legal .acquire => status == ProtocolFault.reentrant.status && rbytes.isEmpty
  | .legal .release => (status == statusOk || status == ProtocolFault.notOwner.status) && rbytes.isEmpty
  | .legal (.busWrite _ _) => status == ProtocolFault.notOwner.status && rbytes.isEmpty
  | .legal (.busWriteRead _ _ _) =>
    (status == ProtocolFault.notOwner.status || status == ProtocolFault.len.status) && rbytes.isEmpty
  | .legal (.reg16Write _ _) | .legal (.reg16Read _) | .legal (.ctrlWriteCmd _) | .legal (.ctrlWriteData _) =>
    (status == ProtocolFault.notOwner.status || status == ProtocolFault.conv.status) && rbytes.isEmpty

/-- How port `r` goes on after an event of the history; none when the event may not come there. A command is accepted only
when none is outstanding; an ACQUIRE is granted and then answered; a bus-operation command is handed to the transport
once, framed as R95 says, and the transport's answer is what its response reports, unchanged. -/
def portStep (cfg : Config) (r : Port) (v : PortView) (e : Event) : Option PortView :=
  match e with
  | .cmd q c => if q = r then (if v = .ready then some (.sent c) else none) else some v
  | .grant q => if q = r then (if v = .sent (.legal .acquire) then some .granted else none) else some v
  | .call q op =>
    if q = r then
      match v with
      | .sent (.legal i) => if frame cfg r i = some op then some (.called i) else none
      | .sent (.illegal _) | .ready | .granted | .called _ | .answered _ _ => none
    else some v
  | .ret a =>
    match v with
    | .called i => some (.answered i a)
    | .ready | .sent _ | .granted | .answered _ _ => some v
  | .resp q status rbytes =>
    if q = r then
      match v with
      | .sent c => if endsAtOnce c status rbytes then some .ready else none
      | .granted => if (status, rbytes) = (statusOk, ([] : List Byte)) then some .ready else none
      | .answered _ a => if (status, rbytes) = a.outcome then some .ready else none
      | .ready | .called _ => none
    else some v

/-- What a history says port `r` is in; none when its events do not come in the order the spec gives. -/
def portAfter (cfg : Config) (r : Port) (h : List Event) : Option PortView :=
  h.foldl (fun v e => v.bind (fun v => portStep cfg r v e)) (some .ready)

/-- A port's registers say what its view of the history says. -/
def State.Shows (s : State) (r : Port) : PortView → Prop
  | .ready => s.pstate.get r = .idle
  | .sent (.legal .acquire) => s.pstate.get r = .acqWait
  | .sent (.legal i) => s.pstate.get r = .op ∧ s.phase = .frame ∧ frame s.cfg r i = some s.cur.op
  | .called i => s.pstate.get r = .op ∧ s.phase = .xfer ∧ frame s.cfg r i = some s.cur.op
  | .answered i a => s.pstate.get r = .op ∧ s.phase = .resp ∧ frame s.cfg r i = some s.cur.op ∧ a = s.ans
  | .sent (.illegal _) => False
  | .granted => False

/-- The history of every port is in the order the spec gives, and the registers agree with it (R42, R60, R70 to R73, R84). -/
def State.FollowsProtocol (s : State) : Prop := ∀ r, ∃ v, portAfter s.cfg r s.hist = some v ∧ s.Shows r v

/-! ## Executions, fairness and the premises of progress claims (R154)

An execution goes on for ever: at each position the environment may put further words on a channel, and one agent takes its
turn. Nothing obliges any agent to take a turn; the conditions below are premises of a claim, never facts of the block. -/

/-- The state in which requester `q` has put the words `ws` on its channel and the turn `m` is next. -/
def State.prepared (s : State) (q : Port) (ws : List Word) (m : Move) : State := { s.supply q ws with moves := [m] }

/-- An execution: the states, the turn taken at each, and the words a requester presents before it (R10, R60). -/
structure Execution where
  state : Nat → State
  move : Nat → Move
  supplier : Nat → Port
  words : Nat → List Word
  next : ∀ n, step ((state n).prepared (supplier n) (words n) (move n)) = .next (state (n + 1))

/-- At position `n` the gate takes an enabled step `grant(r)` (R72). -/
def Execution.Grants (x : Execution) (n : Nat) (r : Port) : Prop := x.move n = .grant r ∧ (x.state n).grantEnabled r = true

/-- Weak fairness of the gate (R154 a): when from some position on a `grant` is always enabled, one is taken. -/
def Execution.FairGate (x : Execution) : Prop :=
  ∀ n, (∀ m ≥ n, ∃ r, (x.state m).grantEnabled r = true) → ∃ m ≥ n, ∃ r, x.Grants m r

/-- Weak fairness of the sequencer (R154 b): when from some position on `start` is always enabled, it is taken, and likewise
`finish`. -/
def Execution.FairSequencer (x : Execution) : Prop :=
  ∀ n, ((∀ m ≥ n, (x.state m).startEnabled = true) → ∃ m ≥ n, x.move m = .start) ∧
    ((∀ m ≥ n, (x.state m).finishEnabled = true) → ∃ m ≥ n, x.move m = .finish)

/-- The transport eventually answers (R154 c), which the source does not promise (R90). -/
def Execution.TransportAnswers (x : Execution) : Prop :=
  ∀ n, (x.state n).phase = .xfer → ∃ m ≥ n, ∃ a, x.move m = .answer a ∧ (x.state m).answerEnabled a = true

/-- Every owner eventually releases (R154 d, R143, R144). -/
def Execution.OwnersRelease (x : Execution) : Prop :=
  ∀ n, (x.state n).locked = true → ∃ m ≥ n, (x.state m).locked = false

/-- `ARB_POLICY` does not starve port `r` (R154 d): while it is pending, grants do not go to other ports for ever. -/
def Execution.ServesPort (x : Execution) (r : Port) : Prop :=
  ∀ n, (∀ m ≥ n, (x.state m).pstate.get r = .acqWait) → (∀ k, ∃ m ≥ k, ∃ q, x.Grants m q) → ∃ m ≥ n, x.Grants m r

end Sys2Proof.Machine
end

