-- ==== Sys2Proof/Laws/Ops.lean ====
section
/-!
SUPPORT. What each shared operation and each command can do, once: the ownership test, the checks of a bus-operation command,
and the outcome of every command of BAF-1.
-/

namespace Sys2Proof.Machine

theorem State.isOwner_iff (s : State) (r : Port) : s.isOwner r = true ↔ s.locked = true ∧ s.owner = r := by
  simp [State.isOwner]

theorem State.grantEnabled_iff (s : State) (r : Port) :
    s.grantEnabled r = true ↔ s.locked = false ∧ s.pstate.get r = .acqWait := by
  simp [State.grantEnabled]

theorem Config.hasPort_iff (c : Config) (r : Port) : c.hasPort r = true ↔ r < c.nReq := by simp [Config.hasPort]

theorem Config.isError_iff (c : Config) (e : BitVec 7) : c.isError e = true ↔ 1 ≤ e.toNat ∧ e.toNat ≤ c.errLast := by
  simp [Config.isError]

/-- The port numbers that a configuration has fit the width `ceil(log2(N_REQ))` (R14). -/
theorem Config.lt_portWidth {c : Config} {r : Port} (h : r < c.nReq) : r < 2 ^ c.portWidth := by
  unfold Config.portWidth
  split
  next h1 => exact Nat.lt_of_lt_of_le h h1
  · exact Nat.lt_of_le_of_lt (Nat.le_sub_one_of_lt h) Nat.lt_log2_self

theorem State.mayPresent_iff (s : State) (r : Port) :
    s.mayPresent r = true ↔ s.cfg.hasPort r = true ∧ s.pstate.get r = .idle := by
  simp [State.mayPresent]

theorem State.startEnabled_iff (s : State) : s.startEnabled = true ↔ s.phase = .frame := by
  simp [State.startEnabled]

theorem State.answerEnabled_iff (s : State) (a : Answer) :
    s.answerEnabled a = true ↔ s.phase = .xfer ∧ s.cur.fits s.cfg a = true := by
  simp [State.answerEnabled]

theorem State.finishEnabled_iff (s : State) : s.finishEnabled = true ↔ s.phase = .resp := by
  simp [State.finishEnabled]

@[simp] theorem BusOp.latch_req (r : Port) (op : BusOp) : (op.latch r).req = r := by cases op <;> rfl

/-- The latch gives back the operation it was written with (R85, R87). -/
@[simp] theorem BusOp.op_latch (r : Port) (op : BusOp) : (op.latch r).op = op := by cases op <;> rfl

/-- Everything a bus-operation command can do: be refused, or launch its operation (R60 checks 4a to 4d). -/
theorem State.busCommand_cases (s : State) (need : Option Convention) (bad : Bool) (op : BusOp) :
    (s.isOwner s.presenting = false ∧ s.busCommand need bad op = s.raise .notOwner s.presenting) ∨
    (s.isOwner s.presenting = true ∧ s.hasConvention s.presenting need = false ∧
      s.busCommand need bad op = s.raise .conv s.presenting) ∨
    (s.isOwner s.presenting = true ∧ s.hasConvention s.presenting need = true ∧ bad = true ∧
      s.busCommand need bad op = s.raise .len s.presenting) ∨
    (s.isOwner s.presenting = true ∧ s.hasConvention s.presenting need = true ∧ bad = false ∧
      s.busCommand need bad op = s.launch s.presenting op) := by
  unfold State.busCommand
  cases s.isOwner s.presenting <;> cases s.hasConvention s.presenting need <;> cases bad <;> simp

/-- The command is a `BUS_WRITE_READ` with an empty part (R115). -/
def badLength : Instr → Bool
  | .busWriteRead _ wbytes rlen => emptyPart wbytes rlen
  | .acquire | .release | .busWrite _ _ | .reg16Write _ _ | .reg16Read _ | .ctrlWriteCmd _ | .ctrlWriteData _ => false

/-- A bus-operation command goes through the checks of R60 with the operation R95 frames it as. -/
theorem exec_of_frame {i : Instr} {s : State} {op : BusOp} (h : frame s.cfg s.presenting i = some op) :
    exec i s = .next (s.busCommand (conventionOf i) (badLength i) op) := by
  cases i <;> simp only [frame, Option.some.injEq, reduceCtorEq] at h <;> subst h <;> rfl

/-- A command is a gate command or has a frame (R95). -/
theorem frame_cases (cfg : Config) (r : Port) (i : Instr) :
    i = .acquire ∨ i = .release ∨ ∃ op, frame cfg r i = some op := by
  cases i <;> simp [frame]

/-- Everything a command can do (R60): be refused, make its ACQUIRE pending, end its handle, or launch its operation. -/
theorem exec_cases (i : Instr) (s : State) :
    (∃ k, endsAtOnce (.legal i) k.status [] = true ∧ (i = .release → s.isOwner s.presenting = false) ∧
      exec i s = .next (s.raise k s.presenting)) ∨
    (i = .acquire ∧ s.isOwner s.presenting = false ∧ exec i s = .next (s.setPstate s.presenting .acqWait)) ∨
    (i = .release ∧ s.isOwner s.presenting = true ∧
      exec i s = .next ((s.setLocked false).respond s.presenting statusOk [])) ∨
    (∃ op, frame s.cfg s.presenting i = some op ∧ s.isOwner s.presenting = true ∧
      exec i s = .next (s.launch s.presenting op)) := by
  obtain rfl | rfl | ⟨op, h⟩ := frame_cases s.cfg s.presenting i
  · cases ho : s.isOwner s.presenting
    · exact .inr (.inl ⟨rfl, rfl, by simp [exec, execAcquire, ho]⟩)
    · exact .inl ⟨.reentrant, by decide, nofun, by simp [exec, execAcquire, ho]⟩
  · cases ho : s.isOwner s.presenting
    · exact .inl ⟨.notOwner, by decide, fun _ => rfl, by simp [exec, execRelease, ho]⟩
    · exact .inr (.inr (.inl ⟨rfl, rfl, by simp [exec, execRelease, ho]⟩))
  · rw [exec_of_frame h]
    have hr : i ≠ .release := by rintro rfl; simp [frame] at h
    obtain ⟨-, e⟩ | ⟨-, hc, e⟩ | ⟨-, -, hb, e⟩ | ⟨ho, -, -, e⟩ :=
      s.busCommand_cases (conventionOf i) (badLength i) op
    · exact .inl ⟨.notOwner, by cases i <;> first | rfl | simp [frame] at h, fun e => absurd e hr, by rw [e]⟩
    · exact .inl ⟨.conv, by cases i <;> first | rfl | simp [conventionOf, State.hasConvention] at hc, fun e => absurd e hr, by rw [e]⟩
    · exact .inl ⟨.len, by cases i <;> first | rfl | simp [badLength] at hb, fun e => absurd e hr, by rw [e]⟩
    · exact .inr (.inr (.inr ⟨op, h, ho, by rw [e]⟩))

end Sys2Proof.Machine
end

