-- ==== Sys2Proof/Laws/Step.lean ====
section
/-!
SUPPORT. What a step can do, once: the ways the machine goes on, one constructor each, with the turn that is taken and
everything its guard says.
-/

namespace Sys2Proof.Machine

/-- The state with its next turn taken off the schedule. -/
def State.popped (s : State) : State := { s with moves := s.moves.tail }

@[simp] theorem State.popped_cfg (s : State) : s.popped.cfg = s.cfg := rfl
@[simp] theorem State.popped_locked (s : State) : s.popped.locked = s.locked := rfl
@[simp] theorem State.popped_owner (s : State) : s.popped.owner = s.owner := rfl
@[simp] theorem State.popped_pstate (s : State) : s.popped.pstate = s.pstate := rfl
@[simp] theorem State.popped_phase (s : State) : s.popped.phase = s.phase := rfl
@[simp] theorem State.popped_cur (s : State) : s.popped.cur = s.cur := rfl
@[simp] theorem State.popped_ans (s : State) : s.popped.ans = s.ans := rfl
@[simp] theorem State.popped_fault (s : State) : s.popped.fault = s.fault := rfl
@[simp] theorem State.popped_hist (s : State) : s.popped.hist = s.hist := rfl
@[simp] theorem State.popped_cmd (s : State) : s.popped.cmd = s.cmd := rfl
@[simp] theorem State.popped_rsp (s : State) : s.popped.rsp = s.rsp := rfl
@[simp] theorem State.popped_presenting (s : State) : s.popped.presenting = s.presenting := rfl
@[simp] theorem State.popped_moves (s : State) : s.popped.moves = s.moves.tail := rfl

/-- The ways a step goes on from `s` in the turn `m`, the turn already taken off the schedule. -/
inductive Stepped (s : State) : Option Move → State → Prop where
  | idle (m : Option Move) : Stepped s m s
  | illegal (r : Port) (why : Illegal) (words rest : List Word) (hi : s.pstate.get r = .idle)
      (hd : decode (s.cmd.get r) = .illegal why words rest) (hx : s.cfg.hasPort r = true) :
      Stepped s (some (.present r)) ((s.accept r (.illegal words) rest).raise .illegal r)
  | refused (r : Port) (i : Instr) (rest : List Word) (k : ProtocolFault) (hi : s.pstate.get r = .idle)
      (hd : decode (s.cmd.get r) = .instr i rest) (hk : endsAtOnce (.legal i) k.status [] = true)
      (hr : i = .release → s.isOwner r = false) (hx : s.cfg.hasPort r = true) :
      Stepped s (some (.present r)) ((s.accept r (.legal i) rest).raise k r)
  | pending (r : Port) (rest : List Word) (hi : s.pstate.get r = .idle)
      (hd : decode (s.cmd.get r) = .instr .acquire rest) (ho : s.isOwner r = false) (hx : s.cfg.hasPort r = true) :
      Stepped s (some (.present r)) ((s.accept r (.legal .acquire) rest).setPstate r .acqWait)
  | released (r : Port) (rest : List Word) (hi : s.pstate.get r = .idle)
      (hd : decode (s.cmd.get r) = .instr .release rest) (ho : s.isOwner r = true) (hx : s.cfg.hasPort r = true) :
      Stepped s (some (.present r))
        (((s.accept r (.legal .release) rest).setLocked false).respond r statusOk [])
  | launched (r : Port) (i : Instr) (rest : List Word) (op : BusOp) (hi : s.pstate.get r = .idle)
      (hd : decode (s.cmd.get r) = .instr i rest) (ho : s.isOwner r = true) (hf : frame s.cfg r i = some op)
      (hx : s.cfg.hasPort r = true) :
      Stepped s (some (.present r)) ((s.accept r (.legal i) rest).launch r op)
  | granted (r : Port) (hl : s.locked = false) (hw : s.pstate.get r = .acqWait) :
      Stepped s (some (.grant r)) (s.grant r)
  | started (hp : s.phase = .frame) : Stepped s (some .start) s.start
  | answered (a : Answer) (hp : s.phase = .xfer) (hf : s.cur.fits s.cfg a = true) :
      Stepped s (some (.answer a)) (s.answer a)
  | finished (hp : s.phase = .resp) : Stepped s (some .finish) s.finish

theorem State.present_stepped {s t : State} {r : Port} (h : s.present r = .next t) :
    Stepped s (some (.present r)) t := by
  unfold State.present at h
  split at h
  next hp =>
    obtain ⟨hx, hi⟩ := (s.mayPresent_iff r).mp hp
    split at h
    next i rest hd =>
      obtain ⟨k, hk, hr, e⟩ | ⟨rfl, ho, e⟩ | ⟨rfl, ho, e⟩ | ⟨op, hf, ho, e⟩ :=
        exec_cases i (s.accept r (.legal i) rest)
      all_goals
        rw [h] at e
        cases e
      · exact .refused r i rest k hi hd hk hr hx
      · exact .pending r rest hi hd ho hx
      · exact .released r rest hi hd ho hx
      · exact .launched r i rest op hi hd ho hf hx
    next hd =>
      cases h
      exact .illegal r _ _ _ hi hd hx
    · cases h
      exact .idle _
  · cases h
    exact .idle _

theorem State.turn_stepped {s t : State} {m : Move} (h : s.turn m = .next t) : Stepped s (some m) t := by
  cases m with
  | present r => exact State.present_stepped h
  | grant r =>
    simp only [State.turn, Host.Outcome.next.injEq] at h
    split at h <;> subst h
    next he =>
      obtain ⟨hl, hw⟩ := (s.grantEnabled_iff r).mp he
      exact .granted r hl hw
    · exact .idle _
  | start =>
    simp only [State.turn, Host.Outcome.next.injEq] at h
    split at h <;> subst h
    next he => exact .started (s.startEnabled_iff.mp he)
    · exact .idle _
  | answer a =>
    simp only [State.turn, Host.Outcome.next.injEq] at h
    split at h <;> subst h
    next he =>
      obtain ⟨hp, hf⟩ := (s.answerEnabled_iff a).mp he
      exact .answered a hp hf
    · exact .idle _
  | finish =>
    simp only [State.turn, Host.Outcome.next.injEq] at h
    split at h <;> subst h
    next he => exact .finished (s.finishEnabled_iff.mp he)
    · exact .idle _

/-- A step is the turn of the agent the schedule names first. -/
theorem step_of_moves {s : State} {m : Move} {ms : List Move} (h : s.moves = m :: ms) :
    step s = State.turn { s with moves := ms } m := by
  simp only [step, State.takeTurn, h]

/-- A run takes one step and goes on from there. -/
theorem run_succ {s t : State} (k : Nat) (h : step s = .next t) :
    Host.Core.run Sys2Proof.core (k + 1) s = Host.Core.run Sys2Proof.core k t := by
  have h' : Sys2Proof.core.step s = .next t := h
  simp [Host.Core.run, h']

/-- A run of `k + 1` steps that goes on has taken one step and then run `k`. -/
theorem step_of_run_succ {s t : State} {k : Nat} (h : Host.Core.run Sys2Proof.core (k + 1) s = .next t) :
    ∃ u, step s = .next u ∧ Host.Core.run Sys2Proof.core k u = .next t := by
  simp only [Host.Core.run] at h
  split at h
  next u hu => exact ⟨u, hu, h⟩
  · cases h
  · cases h

/-- Everything a step can do, and in whose turn. -/
theorem step_stepped {s t : State} (h : step s = .next t) : Stepped s.popped s.moves.head? t := by
  cases hm : s.moves with
  | nil =>
    have hp : s.popped = s := by simp [State.ext_iff, hm]
    simp only [step, State.takeTurn, hm, Host.Outcome.next.injEq] at h
    rw [hp, ← h]
    exact .idle _
  | cons m ms =>
    rw [step_of_moves hm] at h
    have hp : s.popped = { s with moves := ms } := by simp [State.ext_iff, hm]
    rw [hp]
    exact State.turn_stepped h

/-- Ports the block does not have stay idle and never own the gate (R5, R10, R14). -/
theorem State.portsExist_stepped {s t : State} {m : Option Move} (h : s.PortsExist) (hs : Stepped s m t) : t.PortsExist := by
  obtain ⟨h1, h2⟩ := h
  cases hs with
  | idle => exact ⟨h1, h2⟩
  | illegal | refused | started | answered => exact ⟨by simpa using h1, by simpa using h2⟩
  | released => exact ⟨by simpa using h1, by simp⟩
  | pending r _ _ _ _ hx | launched r _ _ _ _ _ _ _ hx =>
    refine ⟨fun q hq => ?_, by simpa using h2⟩
    by_cases e : q = r
    · simpa [e] using (Config.hasPort_iff ..).mp hx
    · exact h1 q (by simpa [PerPort.get_set, e] using hq)
  | granted r _ hw =>
    refine ⟨fun q hq => ?_, fun _ => by simpa using h1 r (by simp [hw])⟩
    by_cases e : q = r
    · simp [e] at hq
    · exact h1 q (by simpa [PerPort.get_set, e] using hq)
  | finished =>
    refine ⟨fun q hq => ?_, by simpa using h2⟩
    by_cases e : q = s.cur.req
    · simp [e] at hq
    · exact h1 q (by simpa [PerPort.get_set, e] using hq)

/-! ## Executions -/

@[simp] theorem State.prepared_cfg (s : State) (q : Port) (ws : List Word) (m : Move) :
    (s.prepared q ws m).cfg = s.cfg := rfl
@[simp] theorem State.prepared_locked (s : State) (q : Port) (ws : List Word) (m : Move) :
    (s.prepared q ws m).locked = s.locked := rfl
@[simp] theorem State.prepared_owner (s : State) (q : Port) (ws : List Word) (m : Move) :
    (s.prepared q ws m).owner = s.owner := rfl
@[simp] theorem State.prepared_pstate (s : State) (q : Port) (ws : List Word) (m : Move) :
    (s.prepared q ws m).pstate = s.pstate := rfl
@[simp] theorem State.prepared_phase (s : State) (q : Port) (ws : List Word) (m : Move) :
    (s.prepared q ws m).phase = s.phase := rfl
@[simp] theorem State.prepared_cur (s : State) (q : Port) (ws : List Word) (m : Move) :
    (s.prepared q ws m).cur = s.cur := rfl
@[simp] theorem State.prepared_ans (s : State) (q : Port) (ws : List Word) (m : Move) :
    (s.prepared q ws m).ans = s.ans := rfl
@[simp] theorem State.prepared_fault (s : State) (q : Port) (ws : List Word) (m : Move) :
    (s.prepared q ws m).fault = s.fault := rfl
@[simp] theorem State.prepared_hist (s : State) (q : Port) (ws : List Word) (m : Move) :
    (s.prepared q ws m).hist = s.hist := rfl
@[simp] theorem State.prepared_cmd (s : State) (q : Port) (ws : List Word) (m : Move) :
    (s.prepared q ws m).cmd = s.cmd.set q (s.cmd.get q ++ ws) := rfl
@[simp] theorem State.prepared_rsp (s : State) (q : Port) (ws : List Word) (m : Move) :
    (s.prepared q ws m).rsp = s.rsp := rfl
@[simp] theorem State.prepared_presenting (s : State) (q : Port) (ws : List Word) (m : Move) :
    (s.prepared q ws m).presenting = s.presenting := rfl
@[simp] theorem State.prepared_moves (s : State) (q : Port) (ws : List Word) (m : Move) :
    (s.prepared q ws m).moves = [m] := rfl

/-- Everything a step of an execution can do: it is a step of the agent the execution names, from the state with the further
words on the channel. -/
theorem Execution.stepped (x : Execution) (n : Nat) :
    Stepped ((x.state n).prepared (x.supplier n) (x.words n) (x.move n)).popped (some (x.move n)) (x.state (n + 1)) :=
  step_stepped (x.next n)

end Sys2Proof.Machine
end

