-- ==== Sys2Proof/Machine/Text.lean ====
section
/-!
DEFINITION. The textual form of a command (R63) and the macros of it (R64). The base, the digits and the spacing are those of
the spec's own lines (log entry 26); no rule of the block reads this form.
-/

namespace Sys2Proof.Machine

/-- A hexadecimal digit. DESIGN CHOICE, log entry 26: the digits above 9 are capitals, as the spec's own examples write them;
R6 and R63 do not fix the case. -/
def hexDigit (n : Nat) : Char := "0123456789ABCDEF".toList.getD n '0'

/-- The last `k` hexadecimal digits of `n`. -/
def hexDigits : Nat → Nat → String
  | 0, _ => ""
  | k + 1, n => hexDigits k (n / 16) ++ (hexDigit (n % 16)).toString

/-- A number of `k` hexadecimal digits (R6). -/
def hexText (k n : Nat) : String := "0x" ++ hexDigits k n

/-- A byte list (R6, R63). -/
def bytesText (bs : List Byte) : String := "[" ++ ", ".intercalate (bs.map (fun b => hexText 2 b.toNat)) ++ "]"

/-- The mnemonic of a row, as spec/opcode_table.json spells it (R57). -/
def mnemonicText : Opcode → String
  | .acquire => "ACQUIRE"
  | .release => "RELEASE"
  | .busWrite => "BUS_WRITE"
  | .busWriteRead => "BUS_WRITE_READ"
  | .reg16Write => "REG16_WRITE"
  | .reg16Read => "REG16_READ"
  | .ctrlWriteCmd => "CTRL_WRITE_CMD"
  | .ctrlWriteData => "CTRL_WRITE_DATA"

/-- The operands of a command in the order of R63. `LEN` and `WLEN` are the list lengths and are not written. DESIGN CHOICE, log
entry 26: `RLEN` is in decimal, every other number in hexadecimal, and one space stands before the operands, as in the spec's
own lines; R6 and R63 admit either base. -/
def operandsText : Instr → String
  | .acquire => ""
  | .release => ""
  | .busWrite addr bytes => " " ++ hexText 2 addr.toNat ++ ", " ++ bytesText bytes
  | .busWriteRead addr wbytes rlen => " " ++ hexText 2 addr.toNat ++ ", " ++ bytesText wbytes ++ ", " ++ Nat.repr rlen.toNat
  | .reg16Write reg d => " " ++ hexText 4 reg.toNat ++ ", " ++ hexText 2 d.toNat
  | .reg16Read reg => " " ++ hexText 4 reg.toNat
  | .ctrlWriteCmd p => " " ++ bytesText p
  | .ctrlWriteData p => " " ++ bytesText p

/-- The port in front of a line (R63). -/
def portText (r : Port) : String := "P" ++ Nat.repr r ++ ": "

/-- One line of the textual form (R63). -/
def lineText (r : Port) (i : Instr) : String := portText r ++ mnemonicText i.opcode ++ operandsText i

/-- The macro `SCOPE`: a handle scope over the commands (R64). -/
def macroScope (cs : List Instr) : List Instr := .acquire :: (cs ++ [.release])

/-- The macro `WR16`: one register write with its own handle (R64). -/
def macroWr16 (reg : RegAddr) (d : Byte) : List Instr := macroScope [.reg16Write reg d]

/-- The macro `RD16`: one register read with its own handle (R64). -/
def macroRd16 (reg : RegAddr) : List Instr := macroScope [.reg16Read reg]

end Sys2Proof.Machine
end

