-- ==== Sys2Proof/Certificates/Slice0/Obligations.lean ====
section
/-!
DEFINITION. The statements for the provers, each with the rules of spec/ it formalises. The schedule `moves` names the agent
that takes the next step (log entry 1), so a statement about every state is one about every schedule and every answer.
-/

open Sys2Proof Sys2Proof.Machine

/-! ## Encoding -/

/-- Decoding the words of a well-formed command gives the command back and leaves the rest of the channel (R50 to R59). -/
def Obligations.DecodeOfEncodeIsTheCommand : Prop :=
  ∀ (i : Instr) (rest : List Word), i.wf = true → decode (encode i ++ rest) = .instr i rest

/-- A channel that decodes to a command begins with exactly the words of that command, which is well-formed: no two encodings
of a command, no bit of a word dropped (R50 to R59). -/
def Obligations.DecodedWordsAreTheEncoding : Prop :=
  ∀ (ws rest : List Word) (i : Instr), decode ws = .instr i rest → i.wf = true ∧ ws = encode i ++ rest

/-- Words of section 2.1 of 95_test_vectors.md, and payload words of 2.3 and 2.4, read as the spec reads them. -/
def Obligations.DecoderReadsTheVectors : Prop :=
  decode [0x10000000#32] = .instr .acquire [] ∧
  decode [0x20000000#32] = .instr .release [] ∧
  decode [0x32900003#32, 0x00000000#32, 0x00000018#32, 0x00000001#32] =
    .instr (.busWrite 0x29#7 [0x00#8, 0x18#8, 0x01#8]) [] ∧
  decode [0x42900201#32, 0x00000000#32, 0x00000062#32] = .instr (.busWriteRead 0x29#7 [0x00#8, 0x62#8] 1#8) [] ∧
  decode [0x50001801#32] = .instr (.reg16Write 0x0018#16 0x01#8) [] ∧
  decode [0x60ABCD00#32] = .instr (.reg16Read 0xABCD#16) [] ∧
  decode [0x70000001#32, 0x000000AE#32] = .instr (.ctrlWriteCmd [0xAE#8]) [] ∧
  decode [0x71000002#32, 0x00000011#32, 0x00000022#32] = .instr (.ctrlWriteData [0x11#8, 0x22#8]) [] ∧
  decode [0x60006201#32, 0x10000000#32] = .illegal .header [0x60006201#32] [0x10000000#32] ∧
  decode [0x000000AE#32] = .illegal .header [0x000000AE#32] []

/-- The decoder's table (R57): a header word selects the row whose mask and match value it meets, and a word that meets none
is an illegal header. That each row is selected exactly by its own words says that the rows do not overlap. -/
def Obligations.DecoderSelectsTheMatchingRow : Prop :=
  ∀ (w : Word) (ws : List Word),
    (selectRow w = some .acquire ↔ w &&& 0xFFFFFFFF#32 = 0x10000000#32) ∧
    (selectRow w = some .release ↔ w &&& 0xFFFFFFFF#32 = 0x20000000#32) ∧
    (selectRow w = some .busWrite ↔ w &&& 0xF80F0000#32 = 0x30000000#32) ∧
    (selectRow w = some .busWriteRead ↔ w &&& 0xF80F0000#32 = 0x40000000#32) ∧
    (selectRow w = some .reg16Write ↔ w &&& 0xFF000000#32 = 0x50000000#32) ∧
    (selectRow w = some .reg16Read ↔ w &&& 0xFF0000FF#32 = 0x60000000#32) ∧
    (selectRow w = some .ctrlWriteCmd ↔ w &&& 0xFFFF0000#32 = 0x70000000#32) ∧
    (selectRow w = some .ctrlWriteData ↔ w &&& 0xFFFF0000#32 = 0x71000000#32) ∧
    (decode (w :: ws) = .illegal .header [w] ws ↔
      w &&& 0xFFFFFFFF#32 ≠ 0x10000000#32 ∧ w &&& 0xFFFFFFFF#32 ≠ 0x20000000#32 ∧
      w &&& 0xF80F0000#32 ≠ 0x30000000#32 ∧ w &&& 0xF80F0000#32 ≠ 0x40000000#32 ∧
      w &&& 0xFF000000#32 ≠ 0x50000000#32 ∧ w &&& 0xFF0000FF#32 ≠ 0x60000000#32 ∧
      w &&& 0xFFFF0000#32 ≠ 0x70000000#32 ∧ w &&& 0xFFFF0000#32 ≠ 0x71000000#32)

/-- The header formulas of R53 to R56 with their payload words (R58) decode to the command they stand for. -/
def Obligations.HeaderFormulasDecode : Prop :=
  ∀ (a : DevAddr) (reg : RegAddr) (d : Byte) (n m : Byte) (len : BitVec 16) (p q : List Byte) (rest : List Word),
    p.length = len.toNat → q.length = n.toNat →
    decode ((0x30000000#32 ||| a.zeroExtend 32 <<< 20 ||| len.zeroExtend 32) :: (p.map (·.zeroExtend 32) ++ rest)) =
      .instr (.busWrite a p) rest ∧
    decode ((0x40000000#32 ||| a.zeroExtend 32 <<< 20 ||| n.zeroExtend 32 <<< 8 ||| m.zeroExtend 32) ::
        (q.map (·.zeroExtend 32) ++ rest)) = .instr (.busWriteRead a q m) rest ∧
    decode ((0x50000000#32 ||| reg.zeroExtend 32 <<< 8 ||| d.zeroExtend 32) :: rest) = .instr (.reg16Write reg d) rest ∧
    decode ((0x60000000#32 ||| reg.zeroExtend 32 <<< 8) :: rest) = .instr (.reg16Read reg) rest ∧
    decode ((0x70000000#32 ||| len.zeroExtend 32) :: (p.map (·.zeroExtend 32) ++ rest)) =
      .instr (.ctrlWriteCmd p) rest ∧
    decode ((0x71000000#32 ||| len.zeroExtend 32) :: (p.map (·.zeroExtend 32) ++ rest)) =
      .instr (.ctrlWriteData p) rest

/-- The number of words of a command is known from its header alone: `1 + LEN` for formats B and C, `1 + WLEN` for format X,
1 for formats G and R and for an illegal header (R59). On a channel that holds that many, exactly that many words are consumed.
That a channel which holds fewer is not decoded yet is the model's choice (log entry 2): R59 does not say what happens then. -/
def Obligations.CommandLengthIsKnownFromTheHeader : Prop :=
  ∀ (h : Word) (ws : List Word) (n : Nat),
    n = (if h &&& 0xF80F0000#32 = 0x30000000#32 ∨ h &&& 0xFFFF0000#32 = 0x70000000#32 ∨
          h &&& 0xFFFF0000#32 = 0x71000000#32 then 1 + h.toNat % 65536
        else if h &&& 0xF80F0000#32 = 0x40000000#32 then 1 + h.toNat / 256 % 256 else 1) →
    match decode (h :: ws) with
    | .incomplete => ws.length + 1 < n
    | .instr i rest => rest = (h :: ws).drop n ∧ n ≤ ws.length + 1 ∧ n = 1 + i.payload.length
    | .illegal _ words rest => words = (h :: ws).take n ∧ rest = (h :: ws).drop n ∧ words.length = n

/-- A payload word with a non-zero bit in 31 to 8 makes the whole command illegal: all its words are consumed (R58, R61). -/
def Obligations.BadPayloadWordIsIllegal : Prop :=
  ∀ (h p : Word) (o : Opcode) (before after rest : List Word),
    selectRow h = some o → o.payloadWords h = before.length + 1 + after.length → 256 ≤ p.toNat →
    decode (h :: (before ++ p :: after ++ rest)) = .illegal .payload (h :: (before ++ p :: after)) rest

/-! ## Reset -/

/-- The state after reset (R25, R135): no handle is live, no ACQUIRE is pending, no transaction is in flight. -/
def Obligations.ResetIsQuiescentAndFree : Prop :=
  State.reset.locked = false ∧ State.reset.owner = .p0 ∧ (∀ r, State.reset.pstate.get r = .idle) ∧
  State.reset.phase = .idle ∧ (∀ r, State.reset.fault.get r = 0b00000#5) ∧ State.reset.hist = [] ∧
  State.reset.QuiescentFree

/-- The configuration of R5, every parameter of its table: two ports, the device addresses and conventions, two distinguishing
control bytes, the bus clock, the word width, the length limits, the error code space and its three names. That it stands in
the state, and the form of the two open bytes, are the model's choice (log entries 7 and 8). -/
def Obligations.ResetConfigurationIsTheSources : Prop :=
  State.reset.cfg.devAddr.get .p0 = 0x3C#7 ∧ State.reset.cfg.devAddr.get .p1 = 0x29#7 ∧
  State.reset.cfg.conv.get .p0 = .ctrl8 ∧ State.reset.cfg.conv.get .p1 = .reg16 ∧
  State.reset.cfg.busClockHz = 400000 ∧ State.reset.cfg.Distinguishing ∧
  State.reset.cfg.nReq = 2 ∧ State.reset.cfg.portWidth = 1 ∧ State.reset.cfg.wordBits = 32 ∧
  State.reset.cfg.maxLen = 65535 ∧ State.reset.cfg.maxWlen = 255 ∧ State.reset.cfg.maxRlen = 255 ∧
  (∀ e : BitVec 7, State.reset.cfg.isError e = true ↔ 1 ≤ e.toNat ∧ e.toNat ≤ 127) ∧
  transportError State.reset.cfg 1#7 = some .nack ∧ transportError State.reset.cfg 2#7 = some .arbLost ∧
  transportError State.reset.cfg 3#7 = some .timeout

/-- From the reset state the only command that does not fault is `ACQUIRE` (R138), for every port the block has, every
configuration and everything else the requesters present. -/
def Obligations.FromResetOnlyAcquireDoesNotFault : Prop :=
  ∀ (cfg : Config) (cmd : PerPort (List Word)) (ms : List Move) (r : Port) (i : Instr) (rest : List Word),
    cfg.hasPort r = true → i.wf = true → cmd.get r = encode i ++ rest →
    ∃ t, step (State.reset.withInputs cfg cmd (.present r :: ms)) = .next t ∧
      (i = .acquire → t.pstate.get r = .acqWait ∧ ∀ q, t.fault.get q = 0b00000#5) ∧
      (i ≠ .acquire → t.pstate.get r = .idle ∧ t.fault.get r = 0b00010#5 ∧ t.rsp.get r = [0x81000000#32])

/-! ## The gate -/

/-- `ACQUIRE` from a port that is not owner becomes pending, with no response yet (R71). -/
def Obligations.AcquireByNonOwnerBecomesPending : Prop :=
  ∀ s : State, s.isOwner s.presenting = false →
    exec .acquire s = .next { s with pstate := s.pstate.set s.presenting .acqWait }

/-- `ACQUIRE` from the owner is refused: bit 2 is set, 0x82 is answered, the gate stays held (R71, R113). -/
def Obligations.AcquireByOwnerIsReentrant : Prop :=
  ∀ s : State, s.locked = true → s.owner = s.presenting →
    exec .acquire s = .next { s with
      fault := s.fault.set s.presenting (s.fault.get s.presenting ||| 0b00100#5)
      rsp := s.rsp.set s.presenting (s.rsp.get s.presenting ++ [0x82000000#32])
      hist := s.hist ++ [.resp s.presenting 0x82#8 []] }

/-- `RELEASE` from the owner frees the gate and is answered 0x00 in the same step, whatever the state of anything else; the
owner's number stays in `OWNER` (R73). -/
def Obligations.ReleaseByOwnerFreesTheGate : Prop :=
  ∀ s : State, s.locked = true → s.owner = s.presenting →
    exec .release s = .next { s with
      locked := false
      rsp := s.rsp.set s.presenting (s.rsp.get s.presenting ++ [0x00000000#32])
      hist := s.hist ++ [.resp s.presenting 0x00#8 []] }

/-- `RELEASE` from any other port is refused: bit 1 is set, 0x81 is answered, the gate is not changed (R73, R112). -/
def Obligations.ReleaseByNonOwnerIsRefused : Prop :=
  ∀ s : State, ¬ (s.locked = true ∧ s.owner = s.presenting) →
    exec .release s = .next { s with
      fault := s.fault.set s.presenting (s.fault.get s.presenting ||| 0b00010#5)
      rsp := s.rsp.set s.presenting (s.rsp.get s.presenting ++ [0x81000000#32])
      hist := s.hist ++ [.resp s.presenting 0x81#8 []] }

/-- The frame of the gate commands: beside the presenting port's `PSTATE`, `FAULT` and `RSP`, the lock and the history, nothing
changes. `ACQUIRE` never changes the lock, `RELEASE` never a `PSTATE`; the block has no memory. -/
def Obligations.GateCommandFrame : Prop :=
  ∀ (i : Instr) (s t : State), i = .acquire ∨ i = .release → exec i s = .next t →
    t.cfg = s.cfg ∧ t.owner = s.owner ∧ t.phase = s.phase ∧ t.cur = s.cur ∧ t.ans = s.ans ∧ t.cmd = s.cmd ∧
    t.presenting = s.presenting ∧ t.moves = s.moves ∧
    (i = .acquire → t.locked = s.locked) ∧ (i = .release → t.pstate = s.pstate) ∧
    ∀ q, q ≠ s.presenting →
      t.pstate.get q = s.pstate.get q ∧ t.fault.get q = s.fault.get q ∧ t.rsp.get q = s.rsp.get q

/-- The step `grant(r)` (R72): when the gate is free and the ACQUIRE of port `r` is pending, for each such port alike, the port
becomes owner and is answered 0x00. -/
def Obligations.GrantStep : Prop :=
  ∀ (s : State) (r : Port) (ms : List Move),
    s.moves = .grant r :: ms → s.locked = false → s.pstate.get r = .acqWait →
    step s = .next { s with
      moves := ms
      locked := true
      owner := r
      pstate := s.pstate.set r .idle
      rsp := s.rsp.set r (s.rsp.get r ++ [0x00000000#32])
      hist := s.hist ++ [.grant r, .resp r 0x00#8 []] }

/-- At every instant at most one port has a live handle (R75, R23 INV6). -/
def Obligations.AtMostOneOwner : Prop :=
  ∀ (s : State) (r q : Port), s.isOwner r = true → s.isOwner q = true → r = q

/-! ## The bus operations and the framer -/

/-- `BUS_WRITE` from the owner launches `Write(ADDR7, bytes)`, for every address and every list of bytes, the empty one among
them (R81, R85). -/
def Obligations.BusWriteLaunches : Prop :=
  ∀ (s : State) (addr : DevAddr) (bytes : List Byte), s.locked = true → s.owner = s.presenting →
    exec (.busWrite addr bytes) s = .next { s with
      cur := { req := s.presenting, kind := .write, addr := addr, wbytes := bytes, rlen := 0#8 }
      pstate := s.pstate.set s.presenting .op
      phase := .frame }

/-- `BUS_WRITE_READ` from the owner with two non-empty parts launches `WriteRead(ADDR7, wbytes, RLEN)` (R82, R85). -/
def Obligations.BusWriteReadLaunches : Prop :=
  ∀ (s : State) (addr : DevAddr) (wbytes : List Byte) (rlen : Byte),
    s.locked = true → s.owner = s.presenting → wbytes ≠ [] → rlen ≠ 0#8 →
    exec (.busWriteRead addr wbytes rlen) s = .next { s with
      cur := { req := s.presenting, kind := .writeRead, addr := addr, wbytes := wbytes, rlen := rlen }
      pstate := s.pstate.set s.presenting .op
      phase := .frame }

/-- `REG16_WRITE` from the owner of a `REG16` port launches a write of exactly three bytes to the port's device: high address
byte, low address byte, data (R95, R97). -/
def Obligations.Reg16WriteLaunches : Prop :=
  ∀ (s : State) (reg : RegAddr) (d : Byte),
    s.locked = true → s.owner = s.presenting → s.cfg.conv.get s.presenting = .reg16 →
    exec (.reg16Write reg d) s = .next { s with
      cur :=
        { req := s.presenting, kind := .write, addr := s.cfg.devAddr.get s.presenting
          wbytes := [BitVec.ofNat 8 (reg.toNat / 256), BitVec.ofNat 8 (reg.toNat % 256), d], rlen := 0#8 }
      pstate := s.pstate.set s.presenting .op
      phase := .frame }

/-- `REG16_READ` from the owner of a `REG16` port launches one combined operation on the port's device: the two address bytes
written, high byte first, and one byte read (R95, R98). -/
def Obligations.Reg16ReadLaunches : Prop :=
  ∀ (s : State) (reg : RegAddr),
    s.locked = true → s.owner = s.presenting → s.cfg.conv.get s.presenting = .reg16 →
    exec (.reg16Read reg) s = .next { s with
      cur :=
        { req := s.presenting, kind := .writeRead, addr := s.cfg.devAddr.get s.presenting
          wbytes := [BitVec.ofNat 8 (reg.toNat / 256), BitVec.ofNat 8 (reg.toNat % 256)], rlen := 1#8 }
      pstate := s.pstate.set s.presenting .op
      phase := .frame }

/-- `CTRL_WRITE_CMD` from the owner of a `CTRL8` port launches one write to the port's device: `CTRL_COMMAND`, then the payload
unchanged, whatever its length (R95, R100). -/
def Obligations.CtrlWriteCmdLaunches : Prop :=
  ∀ (s : State) (p : List Byte),
    s.locked = true → s.owner = s.presenting → s.cfg.conv.get s.presenting = .ctrl8 →
    exec (.ctrlWriteCmd p) s = .next { s with
      cur :=
        { req := s.presenting, kind := .write, addr := s.cfg.devAddr.get s.presenting
          wbytes := s.cfg.ctrlCommand :: p, rlen := 0#8 }
      pstate := s.pstate.set s.presenting .op
      phase := .frame }

/-- `CTRL_WRITE_DATA` likewise, with `CTRL_DATA` in front (R95, R101). -/
def Obligations.CtrlWriteDataLaunches : Prop :=
  ∀ (s : State) (p : List Byte),
    s.locked = true → s.owner = s.presenting → s.cfg.conv.get s.presenting = .ctrl8 →
    exec (.ctrlWriteData p) s = .next { s with
      cur :=
        { req := s.presenting, kind := .write, addr := s.cfg.devAddr.get s.presenting
          wbytes := s.cfg.ctrlData :: p, rlen := 0#8 }
      pstate := s.pstate.set s.presenting .op
      phase := .frame }

/-- The checks of a bus-operation command come in the order ownership, convention, length, and a refused one has exactly the
effect of its refusal: bit 1 and 0x81, bit 3 and 0x83, bit 4 and 0x84 (R60 4a to 4c, R112, R114, R115, R118, R120). -/
def Obligations.BusCommandsAreCheckedInOrder : Prop :=
  ∀ (i : Instr) (s : State), i ≠ .acquire → i ≠ .release →
    ((s.locked = false ∨ s.owner ≠ s.presenting) →
      exec i s = .next { s with
        fault := s.fault.set s.presenting (s.fault.get s.presenting ||| 0b00010#5)
        rsp := s.rsp.set s.presenting (s.rsp.get s.presenting ++ [0x81000000#32])
        hist := s.hist ++ [.resp s.presenting 0x81#8 []] }) ∧
    (s.locked = true → s.owner = s.presenting →
      (i.opcode ∈ [.reg16Write, .reg16Read] ∧ s.cfg.conv.get s.presenting = .ctrl8) ∨
      (i.opcode ∈ [.ctrlWriteCmd, .ctrlWriteData] ∧ s.cfg.conv.get s.presenting = .reg16) →
      exec i s = .next { s with
        fault := s.fault.set s.presenting (s.fault.get s.presenting ||| 0b01000#5)
        rsp := s.rsp.set s.presenting (s.rsp.get s.presenting ++ [0x83000000#32])
        hist := s.hist ++ [.resp s.presenting 0x83#8 []] }) ∧
    (s.locked = true → s.owner = s.presenting →
      (∃ addr wbytes rlen, i = .busWriteRead addr wbytes rlen ∧ (wbytes = [] ∨ rlen = 0#8)) →
      exec i s = .next { s with
        fault := s.fault.set s.presenting (s.fault.get s.presenting ||| 0b10000#5)
        rsp := s.rsp.set s.presenting (s.rsp.get s.presenting ++ [0x84000000#32])
        hist := s.hist ++ [.resp s.presenting 0x84#8 []] })

/-- The frame of the six bus-operation commands: the configuration, the gate, the answer latch, the channels' unread words, the
schedule and everything of the other port are unchanged. A launched one changes no fault bit, no response and no event; a
refused one changes no `PSTATE`, no phase and not the latch. -/
def Obligations.BusCommandFrame : Prop :=
  ∀ (i : Instr) (s t : State), i ≠ .acquire → i ≠ .release → exec i s = .next t →
    t.cfg = s.cfg ∧ t.locked = s.locked ∧ t.owner = s.owner ∧ t.ans = s.ans ∧ t.cmd = s.cmd ∧
    t.presenting = s.presenting ∧ t.moves = s.moves ∧
    (∀ q, q ≠ s.presenting →
      t.pstate.get q = s.pstate.get q ∧ t.fault.get q = s.fault.get q ∧ t.rsp.get q = s.rsp.get q) ∧
    ((t.fault = s.fault ∧ t.rsp = s.rsp ∧ t.hist = s.hist) ∨
      (t.pstate = s.pstate ∧ t.phase = s.phase ∧ t.cur = s.cur))

/-- The arithmetic of the framer, all of it (R96): the two bytes of a register address, and how many bytes each command puts
on the bus. -/
def Obligations.FramerArithmetic : Prop :=
  (∀ reg : RegAddr, (hi reg).toNat = reg.toNat / 256 ∧ (lo reg).toNat = reg.toNat % 256 ∧
    reg.toNat = 256 * (hi reg).toNat + (lo reg).toNat) ∧
  (∀ (cfg : Config) (r : Port) (reg : RegAddr) (d : Byte) (p : List Byte),
    (frame cfg r (.reg16Write reg d)).map (·.wbytes.length) = some 3 ∧
    (frame cfg r (.reg16Read reg)).map (·.wbytes.length) = some 2 ∧
    (frame cfg r (.ctrlWriteCmd p)).map (·.wbytes.length) = some (1 + p.length) ∧
    (frame cfg r (.ctrlWriteData p)).map (·.wbytes.length) = some (1 + p.length)) ∧
  (∀ (cfg : Config) (r : Port) (i : Instr) (op : BusOp),
    i.wf = true → frame cfg r i = some op → op.wbytes.length ≤ 65536)

/-- A framer command does what the raw command with the same framed bytes does, whoever presents it, at a port of its own
convention (R103). R103 says so of a `CTRL_WRITE_CMD` with a payload of at most 65534 bytes; that it holds of 65535 too, where
the raw command has no encoding, is the model's choice (log entry 19: `exec` runs such a term like any other). -/
def Obligations.FramerAndRawCommandsAgree : Prop :=
  ∀ (s : State) (reg : RegAddr) (d : Byte) (p : List Byte),
    (s.cfg.conv.get s.presenting = .reg16 →
      exec (.reg16Write reg d) s = exec (.busWrite (s.cfg.devAddr.get s.presenting) [hi reg, lo reg, d]) s ∧
      exec (.reg16Read reg) s = exec (.busWriteRead (s.cfg.devAddr.get s.presenting) [hi reg, lo reg] 1#8) s) ∧
    (s.cfg.conv.get s.presenting = .ctrl8 →
      exec (.ctrlWriteCmd p) s = exec (.busWrite (s.cfg.devAddr.get s.presenting) (s.cfg.ctrlCommand :: p)) s ∧
      exec (.ctrlWriteData p) s = exec (.busWrite (s.cfg.devAddr.get s.presenting) (s.cfg.ctrlData :: p)) s)

/-! ## The step -/

/-- A step runs the decoded command: when the next turn is that of a requester the block has, whose port is idle and whose
channel decodes to a command, the step is that command's dispatch from the state with the turn taken off the schedule, the
command's words consumed, the port noted (the model's own field, log entry 4) and `Cmd(r, c)` logged (R60). -/
def Obligations.StepRunsTheDecodedCommand : Prop :=
  ∀ (s : State) (r : Port) (ms : List Move) (i : Instr) (rest : List Word),
    s.moves = .present r :: ms → s.cfg.hasPort r = true → s.pstate.get r = .idle → decode (s.cmd.get r) = .instr i rest →
    step s = exec i { s with
      moves := ms
      cmd := s.cmd.set r rest
      presenting := r
      hist := s.hist ++ [.cmd r (.legal i)] }

/-- An illegal encoding is consumed, logged and refused: bit 0 is set, 0x80 is answered, nothing else changes (R60 point 1,
R61, R111). The port noted and the form of the logged command are the model's choice (log entries 4 and 16). -/
def Obligations.IllegalEncodingIsRefused : Prop :=
  ∀ (s : State) (r : Port) (ms : List Move) (why : Illegal) (words rest : List Word),
    s.moves = .present r :: ms → s.cfg.hasPort r = true → s.pstate.get r = .idle →
    decode (s.cmd.get r) = .illegal why words rest →
    step s = .next { s with
      moves := ms
      cmd := s.cmd.set r rest
      presenting := r
      fault := s.fault.set r (s.fault.get r ||| 0b00001#5)
      rsp := s.rsp.set r (s.rsp.get r ++ [0x80000000#32])
      hist := s.hist ++ [.cmd r (.illegal words), .resp r 0x80#8 []] }

/-- A port that waits accepts nothing (R15, R142), and neither does one on whose channel no whole command stands (the model's
choice, log entry 2), nor one that the block does not have (R5, R10); that the turn changes nothing else is log entry 3. -/
def Obligations.WaitingPortAcceptsNothing : Prop :=
  ∀ (s : State) (r : Port) (ms : List Move), s.moves = .present r :: ms →
    s.pstate.get r ≠ .idle ∨ decode (s.cmd.get r) = .incomplete ∨ s.cfg.nReq ≤ r → step s = .next { s with moves := ms }

/-- The step `start` (R87): in phase `FRAME` the latched operation is handed to the transport on behalf of its port. -/
def Obligations.StartHandsTheOperationOver : Prop :=
  ∀ (s : State) (ms : List Move), s.moves = .start :: ms → s.phase = .frame →
    step s = .next { s with
      moves := ms
      phase := .xfer
      hist := s.hist ++ [.call s.cur.req (match s.cur.kind with
        | .write => .write s.cur.addr s.cur.wbytes
        | .writeRead => .writeRead s.cur.addr s.cur.wbytes s.cur.rlen)] }

/-- The step `answer(a)` (R88): in phase `XFER` an answer of the required shape is latched, any of them, an error code being
one of the configuration's error code space, which R5 gives as 1 to 127. -/
def Obligations.AnswerIsLatched : Prop :=
  ∀ (s : State) (a : Answer) (ms : List Move), s.moves = .answer a :: ms → s.phase = .xfer →
    (s.cur.kind = .write ∧ a = .ok []) ∨
    (s.cur.kind = .writeRead ∧ ∃ bs, a = .ok bs ∧ bs.length = s.cur.rlen.toNat) ∨
    (∃ e : BitVec 7, a = .err e ∧ 1 ≤ e.toNat ∧ e.toNat ≤ s.cfg.errLast) →
    step s = .next { s with moves := ms, phase := .resp, ans := a, hist := s.hist ++ [.ret a] }

/-- The step `finish` (R89): in phase `RESP` the answer goes to the operation's port, read bytes with status 0x00 or the
transport's code unchanged without data; the port and the sequencer are idle again; the gate, the fault bits and the latches
are not touched (R74, R121). The count cut to 16 bits is the model's choice (log entry 25); in a run it is at most 255. -/
def Obligations.FinishDeliversTheAnswer : Prop :=
  ∀ (s : State) (ms : List Move), s.moves = .finish :: ms →
    (∀ bs, s.phase = .resp → s.ans = .ok bs →
      step s = .next { s with
        moves := ms
        phase := .idle
        pstate := s.pstate.set s.cur.req .idle
        rsp := s.rsp.set s.cur.req
          (s.rsp.get s.cur.req ++ BitVec.ofNat 32 (bs.length % 65536) :: bs.map (·.zeroExtend 32))
        hist := s.hist ++ [.resp s.cur.req 0x00#8 bs] }) ∧
    (∀ e, s.phase = .resp → s.ans = .err e →
      step s = .next { s with
        moves := ms
        phase := .idle
        pstate := s.pstate.set s.cur.req .idle
        rsp := s.rsp.set s.cur.req (s.rsp.get s.cur.req ++ [e.zeroExtend 32 <<< 24])
        hist := s.hist ++ [.resp s.cur.req (e.zeroExtend 8) []] })

/-- The enabling conditions of `grant`, `start`, `answer` and `finish` (R72, R87, R88, R89): outside them the step is not taken,
so a turn there leaves everything but the schedule as it is (the model's choice, log entry 3). -/
def Obligations.DisabledTurnsChangeNothing : Prop :=
  ∀ (s : State) (m : Move) (ms : List Move), s.moves = m :: ms →
    (∃ r, m = .grant r ∧ (s.locked = true ∨ s.pstate.get r ≠ .acqWait)) ∨
    (m = .start ∧ s.phase ≠ .frame) ∨
    (∃ a, m = .answer a ∧ (s.phase ≠ .xfer ∨ a = .err 0#7 ∨ (∃ e, a = .err e ∧ s.cfg.errLast < e.toNat) ∨
      (∃ b bs, a = .ok (b :: bs) ∧ s.cur.kind = .write) ∨
      (∃ bs, a = .ok bs ∧ s.cur.kind = .writeRead ∧ bs.length ≠ s.cur.rlen.toNat))) ∨
    (m = .finish ∧ s.phase ≠ .resp) →
    step s = .next { s with moves := ms }

/-- No step ends in a fault or a refusal: whatever the schedule, the machine goes on. That a turn with nothing to do changes
nothing, and that an empty schedule is one, are the model's choices (log entries 1, 3, 20). -/
def Obligations.EveryStepGoesOn : Prop := ∀ s : State, ∃ t, step s = .next t

/-! ## Whole-machine rules -/

/-- The transitions of `PHASE`, complete: the phases advance only in the order `IDLE`, `FRAME`, `XFER`, `RESP`, `IDLE`, each by
its own step (R16, R84). -/
def Obligations.PhaseAdvancesInOrder : Prop :=
  ∀ s t : State, s.ControlInv → step s = .next t → t.phase ≠ s.phase →
    (s.phase = .idle ∧ t.phase = .frame ∧
      ∃ r i rest op ms, s.moves = .present r :: ms ∧ decode (s.cmd.get r) = .instr i rest ∧
        s.locked = true ∧ s.owner = r ∧ frame s.cfg r i = some op ∧ t.cur = op.latch r ∧ t.pstate.get r = .op) ∨
    (s.phase = .frame ∧ t.phase = .xfer ∧ s.moves.head? = some .start) ∨
    (s.phase = .xfer ∧ t.phase = .resp ∧ ∃ a, s.moves.head? = some (.answer a) ∧ s.cur.fits s.cfg a = true ∧ t.ans = a) ∨
    (s.phase = .resp ∧ t.phase = .idle ∧ s.moves.head? = some .finish ∧ t.pstate.get s.cur.req = .idle)

/-- The block never leaves phase `XFER` by itself: there is no timeout, only the transport's answer (R90). While it does not
come, the owner's port stays in `P_OP`, the gate stays held and nothing is answered to the owner. -/
def Obligations.OnlyAnAnswerLeavesXfer : Prop :=
  ∀ s t : State, s.ControlInv → s.phase = .xfer → (∀ a, s.moves.head? ≠ some (.answer a)) → step s = .next t →
    t.phase = .xfer ∧ t.cur = s.cur ∧ t.locked = true ∧ t.owner = s.owner ∧
    t.pstate.get s.cur.req = .op ∧ t.rsp.get s.cur.req = s.rsp.get s.cur.req

/-- A port becomes owner by `grant(r)` and ceases to be by its own `RELEASE`; nothing else changes the condition (R124). -/
def Obligations.OwnershipChangesOnlyByGrantAndRelease : Prop :=
  ∀ (s t : State) (r : Port), step s = .next t → t.isOwner r ≠ s.isOwner r →
    (s.isOwner r = false ∧ t.isOwner r = true ∧ s.moves.head? = some (.grant r) ∧ s.locked = false) ∨
    (s.isOwner r = true ∧ t.isOwner r = false ∧ s.moves.head? = some (.present r) ∧
      ∃ rest, decode (s.cmd.get r) = .instr .release rest)

/-- A holder that does not release blocks the other port: while the gate is held a pending ACQUIRE stays pending (R72, R144). -/
def Obligations.PendingAcquireWaitsWhileTheGateIsHeld : Prop :=
  ∀ (s t : State) (r : Port), s.ControlInv → s.locked = true → s.pstate.get r = .acqWait → step s = .next t →
    t.pstate.get r = .acqWait ∧ t.rsp.get r = s.rsp.get r

/-- A requester's turn changes nothing of another port (R20). -/
def Obligations.RequesterTouchesOnlyItsOwnPort : Prop :=
  ∀ (s t : State) (r q : Port), s.moves.head? = some (.present r) → q ≠ r → step s = .next t →
    t.pstate.get q = s.pstate.get q ∧ t.fault.get q = s.fault.get q ∧
    t.rsp.get q = s.rsp.get q ∧ t.cmd.get q = s.cmd.get q

/-- A turn of a port that is not owner changes nothing of the gate or the sequencer: it can only fault or become a pending
ACQUIRE, and nothing reaches the bus (R112, R119, R124). -/
def Obligations.NonOwnerReachesNoBus : Prop :=
  ∀ (s t : State) (r : Port), s.moves.head? = some (.present r) → s.isOwner r = false → step s = .next t →
    t.locked = s.locked ∧ t.owner = s.owner ∧ t.phase = s.phase ∧ t.cur = s.cur ∧ t.ans = s.ans ∧
    t.wireLog = s.wireLog

/-- `FAULT` bits accumulate: no step clears one (R19, R120). -/
def Obligations.FaultBitsAreSticky : Prop :=
  ∀ (s t : State) (r : Port) (k : ProtocolFault), step s = .next t →
    (s.fault.get r).getLsbD k.bit = true → (t.fault.get r).getLsbD k.bit = true

/-- No step writes a configuration input (R11, R12, R137). -/
def Obligations.ConfigurationNeverChanges : Prop := ∀ s t : State, step s = .next t → t.cfg = s.cfg

/-- The history only grows, and no step consumes words of a channel but a requester's own turn (R8, R47). -/
def Obligations.HistoryOnlyGrows : Prop :=
  ∀ s t : State, step s = .next t →
    s.hist <+: t.hist ∧ ∀ r, t.cmd.get r ≠ s.cmd.get r → s.moves.head? = some (.present r) ∧ t.cmd.get r <:+ s.cmd.get r

/-! ## Invariants -/

/-- INV1, INV2 and INV3 are kept by every step (R23). -/
def Obligations.ControlInvariantsAreKept : Prop := ∀ s t : State, s.ControlInv → step s = .next t → t.ControlInv

/-- INV4 is kept by every step: on the wire log `Call` and `Return` alternate (R23, R38). -/
def Obligations.OneTransactionIsKept : Prop :=
  ∀ s t : State, s.ControlInv ∧ s.OneTransaction → step s = .next t → t.OneTransaction

/-- INV5 is kept by every step: between a grant and the release accepted from the same port no other port is granted the gate
and every call is the holder's (R23, R43, R75). -/
def Obligations.CallsInScopeIsKept : Prop :=
  ∀ s t : State, s.ControlInv ∧ s.CallsInScope → step s = .next t → t.CallsInScope

/-- INV7 is kept by every step: as many responses as commands, one less while the port waits (R23). -/
def Obligations.ResponsesCountedIsKept : Prop :=
  ∀ s t : State, s.ControlInv ∧ s.ResponsesCounted → step s = .next t → t.ResponsesCounted

/-- The order of each port's events is kept by every step: a command is accepted when none is outstanding; an ACQUIRE is granted
and answered; a bus-operation command is refused at once, or handed to the transport exactly once, framed as R95 says, and
answered with what the transport answered, unchanged (R39, R42, R60, R84, R89, R95). -/
def Obligations.PortHistoriesFollowTheProtocol : Prop :=
  ∀ s t : State, s.ControlInv ∧ s.FollowsProtocol → step s = .next t → t.FollowsProtocol

/-- The words on each `RSP[r]` are those of the port's `Resp` events, in their order (R24, R62); every step keeps this. -/
def Obligations.ResponseChannelIsKept : Prop := ∀ s t : State, s.ResponsesSent → step s = .next t → t.ResponsesSent

/-- A `FAULT` bit is set exactly when a command of the port was refused with that fault; a transport error sets none (R19, R110,
R120). Every step keeps this. -/
def Obligations.FaultRecordIsKept : Prop := ∀ s t : State, s.FaultsRecorded → step s = .next t → t.FaultsRecorded

/-- Every status is 0x00, a transport code or a protocol fault, never above 0x84, and an error carries no data (R62, R116);
every step keeps this, with the shape of the latched answer (R18). -/
def Obligations.ResponseShapeIsKept : Prop :=
  ∀ s t : State, s.AnswerFits ∧ s.ResponsesWellShaped → step s = .next t → t.AnswerFits ∧ t.ResponsesWellShaped

/-- The reset state, with any configuration and any inputs, has every invariant (R23, R25). -/
def Obligations.ResetHasTheInvariants : Prop :=
  ∀ (cfg : Config) (cmd : PerPort (List Word)) (ms : List Move), ∀ s : State, s = State.reset.withInputs cfg cmd ms →
    s.ControlInv ∧ s.OneTransaction ∧ s.CallsInScope ∧ s.ResponsesCounted ∧ s.FollowsProtocol ∧ s.ResponsesSent ∧
    s.FaultsRecorded ∧ s.AnswerFits ∧ s.ResponsesWellShaped

/-- Every state that a run from reset reaches, under any configuration, any presented words, any schedule and any answers, has
every invariant of R23 and the order of R42 and R43. -/
def Obligations.EveryRunKeepsTheInvariants : Prop :=
  ∀ (cfg : Config) (cmd : PerPort (List Word)) (ms : List Move) (k : Nat) (t : State),
    Sys2Proof.core.run k (State.reset.withInputs cfg cmd ms) = .next t →
    t.ControlInv ∧ t.OneTransaction ∧ t.CallsInScope ∧ t.ResponsesCounted ∧ t.FollowsProtocol ∧ t.ResponsesSent ∧
    t.FaultsRecorded ∧ t.AnswerFits ∧ t.ResponsesWellShaped

/-! ## Whole transactions -/

/-- A bus-operation command of the owner that passes its checks, once its turn, `start`, an answer and `finish` have come, has
put its framed operation on the bus exactly once and has delivered the transport's answer, and nothing else has changed
(R60, R84, R85, R87, R88, R89, R95) but the port noted, which is the model's own field (log entry 4). -/
def Obligations.TransactionRunsToItsResponse : Prop :=
  ∀ (s : State) (r : Port) (i : Instr) (op : BusOp) (a : Answer) (rest : List Word) (ms : List Move),
    i.wf = true → frame s.cfg r i = some op → s.cfg.hasPort r = true → s.isOwner r = true → s.pstate.get r = .idle →
    (∀ v, conventionOf i = some v → s.cfg.conv.get r = v) →
    (∀ addr wbytes rlen, i = .busWriteRead addr wbytes rlen → wbytes ≠ [] ∧ rlen ≠ 0#8) →
    s.cmd.get r = encode i ++ rest → (op.latch r).fits s.cfg a = true →
    s.moves = .present r :: .start :: .answer a :: .finish :: ms →
    Sys2Proof.core.run 4 s = .next { s with
      moves := ms
      cmd := s.cmd.set r rest
      presenting := r
      pstate := s.pstate.set r .idle
      phase := .idle
      cur := op.latch r
      ans := a
      rsp := s.rsp.set r (s.rsp.get r ++ responseWords a.outcome.1 a.outcome.2)
      hist := s.hist ++ [.cmd r (.legal i), .call r op, .ret a, .resp r a.outcome.1 a.outcome.2] }

/-- The macro `WR16` at an idle `REG16` port of a free block, presented in turn and answered by the transport with `a`: the
acquire is granted, the three framed bytes are the only call, the response reports `a`, and the release frees the gate
whatever `a` was (R64, R71 to R74, R97). -/
def Obligations.RegisterWriteInItsOwnScope : Prop :=
  ∀ (s : State) (r : Port) (reg : RegAddr) (d : Byte) (a : Answer) (rest : List Word) (ms : List Move),
    s.cfg.hasPort r = true → s.locked = false → s.pstate.get r = .idle → s.phase = .idle → s.cfg.conv.get r = .reg16 →
    (a = .ok [] ∨ ∃ e : BitVec 7, s.cfg.isError e = true ∧ a = .err e) →
    s.cmd.get r = (macroWr16 reg d).flatMap encode ++ rest →
    s.moves = [.present r, .grant r, .present r, .start, .answer a, .finish, .present r] ++ ms →
    ∃ t, Sys2Proof.core.run 7 s = .next t ∧ t.locked = false ∧ t.phase = .idle ∧ (∀ q, t.pstate.get q = s.pstate.get q) ∧
      t.fault = s.fault ∧ t.cmd.get r = rest ∧ t.moves = ms ∧
      t.wireLog = s.wireLog ++ [.call r (.write (s.cfg.devAddr.get r) [hi reg, lo reg, d]), .ret a] ∧
      t.rsp.get r = s.rsp.get r ++ [0x00000000#32, a.outcome.1.zeroExtend 32 <<< 24, 0x00000000#32]

/-! ## Progress -/

/-- What an execution does under the fairness assumptions and premises of R154, from a state with INV1 to INV3. With a fair gate,
a free gate with a pending ACQUIRE is granted. With a fair sequencer and a transport that answers, a bus operation in the
sequencer has its response delivered, one response to its port, and the sequencer is idle again. With a fair gate, owners that
release and a policy that does not starve the port, a pending port becomes owner. Without the premises none of the three is
true of every execution (R90, R144). -/
def Obligations.FairExecutionsMakeProgress : Prop :=
  ∀ x : Execution, (x.state 0).ControlInv →
    (x.FairGate → ∀ n, (x.state n).locked = false → (∃ r, (x.state n).pstate.get r = .acqWait) →
      ∃ m ≥ n, ∃ r, x.Grants m r ∧ (x.state (m + 1)).isOwner r = true) ∧
    (x.FairSequencer → x.TransportAnswers → ∀ n, (x.state n).phase ≠ .idle → ∀ r, (x.state n).cur.req = r →
      ∃ m > n, (x.state m).phase = .idle ∧ (x.state m).pstate.get r = .idle ∧
        (x.state m).hist.countP (Event.isResp r) = (x.state n).hist.countP (Event.isResp r) + 1) ∧
    (x.FairGate → x.OwnersRelease → ∀ r, x.ServesPort r → ∀ n, (x.state n).pstate.get r = .acqWait →
      ∃ m > n, (x.state m).isOwner r = true ∧ (x.state m).pstate.get r = .idle)

/-! ## Responses and status outputs -/

/-- The fields of a response word (R62): `STATUS` in 31:24, 0 in 23:16, `RCOUNT` in 15:0; then one zero-extended word per byte. -/
def Obligations.ResponseWordFields : Prop :=
  ∀ (status : Byte) (rbytes : List Byte), rbytes.length < 65536 →
    ∃ w, responseWords status rbytes = w :: rbytes.map (fun b => BitVec.ofNat 32 b.toNat) ∧
      w.toNat / 2 ^ 24 = status.toNat ∧ w.toNat / 2 ^ 16 % 256 = 0 ∧ w.toNat % 65536 = rbytes.length

/-- The status codes and fault bits of the five protocol faults (R19, R111 to R115), the three named transport codes (R110), and
bit 7 telling the two kinds of abnormal status apart (R116). -/
def Obligations.StatusCodes : Prop :=
  (ProtocolFault.illegal.status, ProtocolFault.illegal.mask) = (0x80#8, 0b00001#5) ∧
  (ProtocolFault.notOwner.status, ProtocolFault.notOwner.mask) = (0x81#8, 0b00010#5) ∧
  (ProtocolFault.reentrant.status, ProtocolFault.reentrant.mask) = (0x82#8, 0b00100#5) ∧
  (ProtocolFault.conv.status, ProtocolFault.conv.mask) = (0x83#8, 0b01000#5) ∧
  (ProtocolFault.len.status, ProtocolFault.len.mask) = (0x84#8, 0b10000#5) ∧
  errNack = 1#7 ∧ errArbLost = 2#7 ∧ errTimeout = 3#7 ∧
  (∀ k : ProtocolFault, k.status.getLsbD 7 = true) ∧ (∀ e : BitVec 7, (transportStatus e).getLsbD 7 = false)

/-- The status outputs show the registers in the encodings of R13 to R16 and R19 (R24, R128); `OWNER` takes `ceil(log2(N_REQ))`
bits, the least number that all port numbers fit. -/
def Obligations.StatusOutputsShowTheRegisters : Prop :=
  ∀ s : State,
    (s.statusOutputs.locked = 1#1 ↔ s.locked = true) ∧
    s.statusOutputs.owner.toNat = s.owner % 2 ^ s.cfg.portWidth ∧
    s.cfg.nReq ≤ 2 ^ s.cfg.portWidth ∧ (∀ w, s.cfg.nReq ≤ 2 ^ w → s.cfg.portWidth ≤ w) ∧
    (∀ r, (s.statusOutputs.pstate.get r = 0#2 ↔ s.pstate.get r = .idle) ∧
      (s.statusOutputs.pstate.get r = 1#2 ↔ s.pstate.get r = .acqWait) ∧
      (s.statusOutputs.pstate.get r = 2#2 ↔ s.pstate.get r = .op)) ∧
    (s.statusOutputs.phase = 0#2 ↔ s.phase = .idle) ∧ (s.statusOutputs.phase = 1#2 ↔ s.phase = .frame) ∧
    (s.statusOutputs.phase = 2#2 ↔ s.phase = .xfer) ∧ (s.statusOutputs.phase = 3#2 ↔ s.phase = .resp) ∧
    s.statusOutputs.fault = s.fault
end

