-- ==== Sys2Proof/Tests/Slice0.lean ====
section
/-!
SUPPORT. Tests. Expected results come from section 2 of 95_test_vectors.md and from the worked examples of the rules, named at
each test; the instance `CC = 0x00`, `CD = 0x40` is that of section 2.4. The second half shows, for every statement with
hypotheses, a state and operands that meet them.
-/

namespace Sys2Proof.Tests

open Sys2Proof Sys2Proof.Machine

/-! ## Helpers -/

/-- The default configuration with the control bytes of section 2.4's instance. -/
def cfg : Config := { Config.standard with ctrlCommand := 0x00#8, ctrlData := 0x40#8 }

/-- The gate free, port `r` presenting. -/
def free (r : Port) : State := { State.reset with cfg := cfg, presenting := r }

/-- Port `q` is owner, port `r` presenting. -/
def held (q r : Port) : State := { free r with locked := true, owner := q }

/-- Port `r` has the words `ws` on its channel and the next turn. -/
def turnOf (s : State) (r : Port) (ws : List Word) : State := { s with cmd := s.cmd.set r ws, moves := [.present r] }

/-- Port 1's read of 0x0062 is in the sequencer, in phase `p`, and `m` is the next turn. -/
def reading (p : Phase) (m : Move) : State :=
  { held .p1 .p1 with
    pstate := ⟨[.idle, .op]⟩, phase := p, moves := [m], ans := .ok [0x2A#8],
    cur := { req := .p1, kind := .writeRead, addr := 0x29#7, wbytes := [0x00#8, 0x62#8], rlen := 1#8 } }

/-- The state after a step. -/
def after (o : Host.Outcome State Fault Refusal) : State :=
  match o with
  | .next t => t
  | .fault _ => State.reset
  | .refused _ => State.reset

/-- `(LOCKED, OWNER, PSTATE[0], PSTATE[1], PHASE)`, as section 2 writes a state. -/
def shown (s : State) : Bool × Port × PState × PState × Phase := (s.locked, s.owner, s.pstate.get .p0, s.pstate.get .p1, s.phase)

/-! ## WellFormed: each check refuses an ill-formed command -/

theorem test_wf_busWrite_too_long : (Instr.busWrite 0x29#7 (List.replicate 65536 0#8)).wf = false := by
  exact eq_false_of_ne_true fun h => absurd (payload_le_of_wf h) (by
    simp only [Instr.payload, List.length_replicate]; decide)

theorem test_wf_busWriteRead_too_long : (Instr.busWriteRead 0x29#7 (List.replicate 256 0#8) 1#8).wf = false := by
  exact eq_false_of_ne_true fun h => absurd (payload_le_of_wf h) (by
    simp only [Instr.payload, List.length_replicate]; decide)

theorem test_wf_ctrlWriteCmd_too_long : (Instr.ctrlWriteCmd (List.replicate 65536 0#8)).wf = false := by
  exact eq_false_of_ne_true fun h => absurd (payload_le_of_wf h) (by
    simp only [Instr.payload, List.length_replicate]; decide)

theorem test_wf_ctrlWriteData_too_long : (Instr.ctrlWriteData (List.replicate 65536 0#8)).wf = false := by
  exact eq_false_of_ne_true fun h => absurd (payload_le_of_wf h) (by
    simp only [Instr.payload, List.length_replicate]; decide)

theorem test_wf_longest :
    (Instr.busWrite 0x29#7 (List.replicate 65535 0#8)).wf = true ∧
    (Instr.busWriteRead 0x29#7 (List.replicate 255 0#8) 255#8).wf = true ∧
    (Instr.ctrlWriteCmd (List.replicate 65535 0#8)).wf = true ∧
    (Instr.ctrlWriteData (List.replicate 65535 0#8)).wf = true := by
  refine ⟨?_, ?_, ?_, ?_⟩ <;> exact wf_of_payload_le (by simp only [Instr.payload, List.length_replicate]; decide)

theorem test_wf_empty_parts : (Instr.busWriteRead 0x29#7 [] 0#8).wf = true ∧ (Instr.ctrlWriteCmd []).wf = true := by decide

/-! ## Decoding: words written out field by field from R51 to R56 -/

/-- Format G: `OP` 0x1 and 0x2, 28 reserved zeros (R52). -/
theorem test_decode_gate_bits :
    decode [0b0001#4 ++ 0#28] = .instr .acquire [] ∧ decode [0b0010#4 ++ 0#28] = .instr .release [] := by decide

/-- Format B: `OP` 0x3, bit 27 zero, `ADDR7`, bits 19:16 zero, `LEN` (R53). -/
theorem test_decode_busWrite_bits :
    decode [0b0011#4 ++ 0#1 ++ 0b0101001#7 ++ 0#4 ++ 3#16, 0x00#32, 0x18#32, 0x01#32] =
      .instr (.busWrite 0x29#7 [0x00#8, 0x18#8, 0x01#8]) [] := by decide

/-- Format X: `OP` 0x4, bit 27 zero, `ADDR7`, bits 19:16 zero, `WLEN`, `RLEN` (R54). -/
theorem test_decode_busWriteRead_bits :
    decode [0b0100#4 ++ 0#1 ++ 0b0101001#7 ++ 0#4 ++ 1#8 ++ 3#8, 0x10#32] =
      .instr (.busWriteRead 0x29#7 [0x10#8] 3#8) [] := by decide

/-- Format R: `OP` 0x5 and 0x6, bits 27:24 zero, `REGADDR`, `DATA` (R55). -/
theorem test_decode_reg16_bits :
    decode [0b0101#4 ++ 0#4 ++ 0xFF00#16 ++ 0xA5#8] = .instr (.reg16Write 0xFF00#16 0xA5#8) [] ∧
    decode [0b0110#4 ++ 0#4 ++ 0xABCD#16 ++ 0x00#8] = .instr (.reg16Read 0xABCD#16) [] := by decide

/-- Format C: `OP` 0x7, bits 27:25 zero, `KIND`, bits 23:16 zero, `LEN` (R56). -/
theorem test_decode_ctrl_bits :
    decode [0b0111#4 ++ 0#3 ++ 0#1 ++ 0#8 ++ 1#16, 0xAE#32] = .instr (.ctrlWriteCmd [0xAE#8]) [] ∧
    decode [0b0111#4 ++ 0#3 ++ 1#1 ++ 0#8 ++ 2#16, 0x11#32, 0x22#32] = .instr (.ctrlWriteData [0x11#8, 0x22#8]) [] := by
  decide

/-- The illegal words of section 2.1, each with the bit that makes it so. -/
theorem test_decode_illegal_headers :
    [0x10000001#32, 0x00000000#32, 0x000000AE#32, 0x80000000#32, 0xFFFFFFFF#32, 0x3A900003#32, 0x32910003#32, 0x51001801#32,
      0x60006201#32, 0x72000001#32, 0x70010001#32].all
        (fun w => decode [w, 0x12#32] == .illegal .header [w] [0x12#32]) = true := by decide

/-- Section 2.1: the legal empty forms, which decode whether or not the command is refused later. -/
theorem test_decode_empty_forms :
    decode [0x33C00000#32] = .instr (.busWrite 0x3C#7 []) [] ∧ decode [0x70000000#32] = .instr (.ctrlWriteCmd []) [] ∧
    decode [0x42900001#32] = .instr (.busWriteRead 0x29#7 [] 1#8) [] ∧
    decode [0x42900200#32, 0x00#32, 0x62#32] = .instr (.busWriteRead 0x29#7 [0x00#8, 0x62#8] 0#8) [] := by decide

/-- Section 2.1: the word counts of the longest write and of the register commands at their extremes. -/
theorem test_decode_extremes :
    selectRow 0x37F0FFFF#32 = some .busWrite ∧ fieldLen 0x37F0FFFF#32 = 65535#16 ∧ fieldAddr7 0x37F0FFFF#32 = 0x7F#7 ∧
    decode [0x50FFFFFF#32] = .instr (.reg16Write 0xFFFF#16 0xFF#8) [] ∧
    decode [0x50000000#32] = .instr (.reg16Write 0x0000#16 0x00#8) [] ∧
    decode [0x5000FF00#32] = .instr (.reg16Write 0x00FF#16 0x00#8) [] := by decide

/-- Vector F8: bit 8 of the second payload word is set; all three words are consumed. -/
theorem test_decode_bad_payload :
    decode [0x32900002#32, 0x12#32, 0x134#32, 0x20000000#32] =
      .illegal .payload [0x32900002#32, 0x12#32, 0x134#32] [0x20000000#32] := by decide

/-- A command of which a word is missing is not taken (R59, log entry 2). -/
theorem test_decode_incomplete : decode [0x32900003#32, 0x00#32, 0x18#32] = .incomplete := by decide

/-- The worked examples' words, encoded. -/
theorem test_encode :
    encode (.busWrite 0x29#7 [0x00#8, 0x18#8, 0x01#8]) = [0x32900003#32, 0x00#32, 0x18#32, 0x01#32] ∧
    encode (.busWriteRead 0x29#7 [0x00#8, 0x62#8] 1#8) = [0x42900201#32, 0x00#32, 0x62#32] ∧
    encode (.reg16Write 0x0018#16 0x01#8) = [0x50001801#32] ∧ encode (.reg16Read 0x0062#16) = [0x60006200#32] ∧
    encode (.ctrlWriteCmd [0xAE#8]) = [0x70000001#32, 0xAE#32] ∧
    encode (.ctrlWriteData [0x11#8, 0x22#8]) = [0x71000002#32, 0x11#32, 0x22#32] ∧
    encode .acquire = [0x10000000#32] ∧ encode .release = [0x20000000#32] := by decide

/-- The opcode table's numbering: bit 0 is the low bit of the header, the payload words count on from bit 32. -/
theorem test_decodeTableWord :
    decodeTableWord 64 0xAE70000001 = some (.ctrlWriteCmd [0xAE#8]) ∧
    decodeTableWord 32 0x50001801 = some (.reg16Write 0x0018#16 0x01#8) ∧
    decodeTableWord 32 0x71000002 = some (.ctrlWriteData [0x00#8, 0x00#8]) ∧ decodeTableWord 32 0x60006201 = none := by decide

/-- A word placed after reset is run by the next step: the ACQUIRE of port 0 is pending (R71), anything else faults (R138). -/
theorem test_withFetchWord :
    (after (step (State.reset.withFetchWord 32 0x10000000))).pstate = ⟨[.acqWait, .idle]⟩ ∧
    (after (step (State.reset.withFetchWord 64 0xAE70000001))).rsp = ⟨[[0x81000000#32], []]⟩ ∧
    (after (step (State.reset.withFetchWord 64 0xAE70000001))).cmd = ⟨[[], []]⟩ := by decide

/-! ## The gate: section 2.2 -/

/-- G1. -/
theorem test_acquire_free : shown (after (exec .acquire (free .p1))) = (false, .p0, .idle, .acqWait, .idle) := by decide

/-- G3. -/
theorem test_acquire_reentrant :
    shown (after (exec .acquire (held .p1 .p1))) = (true, .p1, .idle, .idle, .idle) ∧
    (after (exec .acquire (held .p1 .p1))).rsp.get .p1 = [0x82000000#32] ∧
    (after (exec .acquire (held .p1 .p1))).fault = ⟨[0b00000#5, 0b00100#5]⟩ := by decide

/-- G7 and G10: either pending port may be granted; the other then waits, and G5: no grant while the gate is held. -/
theorem test_grant :
    shown (after (step { free .p0 with pstate := ⟨[.acqWait, .acqWait]⟩, moves := [.grant .p0] })) =
      (true, .p0, .idle, .acqWait, .idle) ∧
    shown (after (step { free .p0 with pstate := ⟨[.acqWait, .acqWait]⟩, moves := [.grant .p1] })) =
      (true, .p1, .acqWait, .idle, .idle) ∧
    shown (after (step { held .p1 .p1 with pstate := ⟨[.acqWait, .idle]⟩, moves := [.grant .p0] })) =
      (true, .p1, .acqWait, .idle, .idle) := by decide

/-- G6. -/
theorem test_release_owner :
    shown (after (exec .release { held .p1 .p1 with pstate := ⟨[.acqWait, .idle]⟩ })) = (false, .p1, .acqWait, .idle, .idle) ∧
    (after (exec .release (held .p1 .p1))).rsp = ⟨[[], [0x00000000#32]]⟩ := by decide

/-- G8, F12. -/
theorem test_release_non_owner :
    shown (after (exec .release (held .p1 .p0))) = (true, .p1, .idle, .idle, .idle) ∧
    (after (exec .release (held .p1 .p0))).rsp = ⟨[[0x81000000#32], []]⟩ ∧
    (after (exec .release (held .p1 .p0))).fault = ⟨[0b00010#5, 0b00000#5]⟩ := by decide

/-! ## The bus operations: sections 2.3, 2.4 and 2.5 -/

/-- B1, B2. -/
theorem test_busWrite :
    (after (exec (.busWrite 0x29#7 [0x00#8, 0x18#8, 0x01#8]) (held .p1 .p1))).cur =
      { req := .p1, kind := .write, addr := 0x29#7, wbytes := [0x00#8, 0x18#8, 0x01#8], rlen := 0#8 } ∧
    (after (exec (.busWrite 0x3C#7 []) (held .p1 .p1))).cur.op = .write 0x3C#7 [] := by decide

/-- F9: without the handle, one refusal for the whole command, three words consumed. -/
theorem test_busWrite_non_owner :
    (after (step (turnOf (free .p1) .p1 [0x32900002#32, 0x12#32, 0x34#32]))).rsp.get .p1 = [0x81000000#32] ∧
    (after (step (turnOf (free .p1) .p1 [0x32900002#32, 0x12#32, 0x34#32]))).cmd.get .p1 = [] := by decide

/-- B3, B4: the phase trace's first line. -/
theorem test_busWriteRead :
    shown (after (step (turnOf (held .p1 .p1) .p1 [0x42900201#32, 0x00#32, 0x62#32]))) =
      (true, .p1, .idle, .op, .frame) ∧
    (after (exec (.busWriteRead 0x29#7 [0x10#8] 3#8) (held .p1 .p1))).cur.op = .writeRead 0x29#7 [0x10#8] 3#8 := by decide

/-- F5, F6: an empty write part, an empty read part. -/
theorem test_busWriteRead_empty_part :
    (after (exec (.busWriteRead 0x29#7 [] 1#8) (held .p1 .p1))).rsp.get .p1 = [0x84000000#32] ∧
    (after (exec (.busWriteRead 0x29#7 [0x00#8, 0x62#8] 0#8) (held .p1 .p1))).fault.get .p1 = 0b10000#5 := by decide

/-- Section 2.4: the byte order shows in 0x00FF and 0xFF00. -/
theorem test_reg16Write :
    (after (exec (.reg16Write 0x00FF#16 0xA5#8) (held .p1 .p1))).cur.op = .write 0x29#7 [0x00#8, 0xFF#8, 0xA5#8] ∧
    (after (exec (.reg16Write 0xFF00#16 0xA5#8) (held .p1 .p1))).cur.op = .write 0x29#7 [0xFF#8, 0x00#8, 0xA5#8] := by decide

/-- R114 at port 0. -/
theorem test_reg16Write_conv : (after (exec (.reg16Write 0x0018#16 0x01#8) (held .p0 .p0))).fault.get .p0 = 0b01000#5 := by decide

/-- Section 2.4, row 0xABCD. -/
theorem test_reg16Read :
    (after (exec (.reg16Read 0xABCD#16) (held .p1 .p1))).cur.op = .writeRead 0x29#7 [0xAB#8, 0xCD#8] 1#8 := by decide

/-- F2, F3: ownership is checked before convention. -/
theorem test_reg16Read_refused :
    (after (exec (.reg16Read 0x0062#16) (free .p0))).rsp.get .p0 = [0x81000000#32] ∧
    (after (exec (.reg16Read 0x0062#16) (held .p0 .p0))).rsp.get .p0 = [0x83000000#32] := by decide

/-- Section 2.4, the first two rows of `CTRL_WRITE_*`. -/
theorem test_ctrlWriteCmd :
    (after (exec (.ctrlWriteCmd []) (held .p0 .p0))).cur.op = .write 0x3C#7 [0x00#8] ∧
    (after (exec (.ctrlWriteCmd [0xAE#8]) (held .p0 .p0))).cur.op = .write 0x3C#7 [0x00#8, 0xAE#8] := by decide

/-- F4. -/
theorem test_ctrlWriteCmd_conv :
    (after (step (turnOf (held .p1 .p1) .p1 [0x70000001#32, 0xAE#32]))).rsp.get .p1 = [0x83000000#32] ∧
    (after (step (turnOf (held .p1 .p1) .p1 [0x70000001#32, 0xAE#32]))).cmd.get .p1 = [] := by decide

/-- Section 2.4, the last two rows: payload bytes equal to the control bytes are sent like any other. -/
theorem test_ctrlWriteData :
    (after (exec (.ctrlWriteData [0x11#8, 0x22#8]) (held .p0 .p0))).cur.op = .write 0x3C#7 [0x40#8, 0x11#8, 0x22#8] ∧
    (after (exec (.ctrlWriteData [0x40#8, 0x00#8]) (held .p0 .p0))).cur.op = .write 0x3C#7 [0x40#8, 0x40#8, 0x00#8] := by
  decide

/-- R114 at port 1. -/
theorem test_ctrlWriteData_conv : (after (exec (.ctrlWriteData []) (held .p1 .p1))).rsp.get .p1 = [0x83000000#32] := by decide

/-! ## The agents' steps -/

/-- F7, F11: an illegal word is refused whoever presents it, before ownership is looked at. -/
theorem test_illegal_word :
    (after (step (turnOf (held .p1 .p1) .p1 [0x60006201#32]))).rsp.get .p1 = [0x80000000#32] ∧
    (after (step (turnOf (free .p1) .p1 [0x60006201#32]))).rsp.get .p1 = [0x80000000#32] ∧
    (after (step (turnOf (free .p1) .p1 [0x60006201#32]))).fault.get .p1 = 0b00001#5 := by decide

/-- G12: a port in `P_OP` presents nothing. -/
theorem test_waiting_port :
    after (step { reading .xfer (.present .p1) with cmd := ⟨[[], [0x20000000#32]]⟩ }) =
      { reading .xfer (.present .p1) with cmd := ⟨[[], [0x20000000#32]]⟩, moves := [] } := by decide

/-- The phase trace of B3, its three other lines. -/
theorem test_phase_trace :
    (after (step (reading .frame .start))).phase = .xfer ∧
    (after (step (reading .frame .start))).hist = [.call .p1 (.writeRead 0x29#7 [0x00#8, 0x62#8] 1#8)] ∧
    (after (step (reading .xfer (.answer (.ok [0x2A#8]))))).phase = .resp ∧
    shown (after (step (reading .resp .finish))) = (true, .p1, .idle, .idle, .idle) ∧
    (after (step (reading .resp .finish))).rsp.get .p1 = [0x00000001#32, 0x0000002A#32] := by decide

/-- B5, B6, F13: a transport error is delivered unchanged, without data, and sets no bit. -/
theorem test_transport_errors :
    (after (step { reading .resp .finish with ans := .err 0x02#7 })).rsp.get .p1 = [0x02000000#32] ∧
    (after (step { reading .resp .finish with ans := .err 0x7F#7 })).rsp.get .p1 = [0x7F000000#32] ∧
    (after (step { reading .resp .finish with ans := .err 0x01#7 })).fault = ⟨[0#5, 0#5]⟩ ∧
    (after (step { reading .resp .finish with ans := .err 0x01#7 })).locked = true := by decide

/-- R88: no other shape is an answer: too many bytes, data for a write, the code 0. -/
theorem test_answer_shape :
    (reading .xfer .start).cur.fits cfg (.ok [1#8, 2#8]) = false ∧ (reading .xfer .start).cur.fits cfg (.err 0#7) = false ∧
    (reading .xfer .start).cur.fits cfg (.err 0x7F#7) = true ∧
    { (reading .xfer .start).cur with kind := .write }.fits cfg (.ok [1#8]) = false := by decide

/-- PE: while the transport does not answer, no other agent's turn leaves `XFER`. -/
theorem test_stuck_in_xfer :
    ∀ m ∈ [Move.present .p0, .present .p1, .grant .p0, .grant .p1, .start, .finish],
      shown (after (step { reading .xfer m with pstate := ⟨[.acqWait, .op]⟩ })) = (true, .p1, .acqWait, .op, .xfer) := by decide

/-- R10: a port the block does not have presents nothing; with `N_REQ = 3` the third port acquires the gate like the others. -/
theorem test_ports :
    step (turnOf (free .p0) 2 [0x10000000#32]) = .next { turnOf (free .p0) 2 [0x10000000#32] with moves := [] } ∧
    (after (step { turnOf (free .p0) 2 [0x10000000#32] with cfg := { cfg with nReq := 3 } })).pstate =
      ⟨[.idle, .idle, .acqWait]⟩ ∧
    (Config.standard.portWidth, { cfg with nReq := 3 }.portWidth, { cfg with nReq := 5 }.portWidth) = (1, 2, 3) := by
  refine ⟨rfl, by decide, by decide⟩

/-- R5: the word and its limits are those of the configuration's fields, and R110: 4 to 127 are codes without a name. -/
theorem test_parameters :
    Word = BitVec Config.standard.wordBits ∧ Config.standard.maxLen = 2 ^ 16 - 1 ∧ Config.standard.maxWlen = 2 ^ 8 - 1 ∧
    Config.standard.maxRlen = 2 ^ 8 - 1 ∧ transportError cfg 4#7 = some .unnamed ∧ transportError cfg 127#7 = some .unnamed ∧
    transportError cfg 0#7 = none := by
  refine ⟨rfl, rfl, rfl, rfl, by decide, by decide, by decide⟩

/-- R22, D31: a program that has not run is not complete; after the RELEASE that ends it, nothing left, the run is clean. -/
theorem test_complete :
    ¬ (turnOf (free .p1) .p1 [0x10000000#32]).Complete ∧
    (after (exec .release { held .p1 .p1 with hist := [.cmd .p1 (.legal .release)] })).Clean := by
  refine ⟨fun h => absurd (h.2.1 .p1) (by decide), ⟨⟨⟨fun r => ?_, rfl⟩, fun r => ?_, fun r => ?_⟩, rfl, fun r => ?_⟩⟩
  · rcases r with _ | _ | r <;> rfl
  · rcases r with _ | _ | r <;> rfl
  · rcases r with _ | _ | r <;> first | decide | simp [after, exec, execRelease, held, free, State.isOwner, State.respond, State.send,
      State.log, State.setLocked, Event.isCmd, Event.isResp]
  · rcases r with _ | _ | r <;> rfl

/-- R23 INV5: a second `Grant` before the RELEASE of the first holder is refused, after it the same events are in order. -/
theorem test_scopes :
    callsInScope none [.grant .p0, .grant .p1, .call .p1 (.write 0x29#7 [])] = false ∧
    callsInScope none [.grant .p0, .cmd .p0 (.legal .release), .grant .p1, .call .p1 (.write 0x29#7 [])] = true ∧
    callsInScope none [.grant .p0, .call .p1 (.write 0x29#7 [])] = false := by decide

/-- The textual form of R63, as section 3 writes it with its byte lists. -/
theorem test_text :
    lineText .p1 (.reg16Write 0x0018#16 0x01#8) = "P1: REG16_WRITE 0x0018, 0x01" ∧
    lineText .p0 (.ctrlWriteData [0x11#8, 0x22#8]) = "P0: CTRL_WRITE_DATA [0x11, 0x22]" ∧
    lineText .p0 (.ctrlWriteCmd [0xAE#8]) = "P0: CTRL_WRITE_CMD [0xAE]" ∧
    lineText .p1 (.busWriteRead 0x29#7 [] 1#8) = "P1: BUS_WRITE_READ 0x29, [], 1" := by decide

/-- The macro `WR16` of R64, and the words of program PA's first three lines. -/
theorem test_macro :
    (macroWr16 0x0018#16 0x01#8).flatMap encode = [0x10000000#32, 0x50001801#32, 0x20000000#32] ∧
    (macroRd16 0x0062#16).flatMap encode = [0x10000000#32, 0x60006200#32, 0x20000000#32] := by decide

/-! ## Witnesses: states and operands that meet the hypotheses of the statements -/

/-- `DecodeOfEncodeIsTheCommand`, `DecodedWordsAreTheEncoding`: a command of every format at a boundary of its operands. -/
theorem witness_encoding :
    (Instr.busWrite 0x7F#7 []).wf = true ∧ decode (encode (.busWrite 0x7F#7 []) ++ [0#32]) = .instr (.busWrite 0x7F#7 []) [0#32] ∧
    (Instr.busWriteRead 0x00#7 [0xFF#8] 0xFF#8).wf = true ∧
    decode [0x400001FF#32, 0xFF#32] = .instr (.busWriteRead 0x00#7 [0xFF#8] 0xFF#8) [] ∧
    (Instr.reg16Read 0xFFFF#16).wf = true ∧ decode [0x60FFFF00#32] = .instr (.reg16Read 0xFFFF#16) [] ∧
    (Instr.ctrlWriteData [0x40#8]).wf = true ∧ decode [0x71000001#32, 0x40#32] = .instr (.ctrlWriteData [0x40#8]) [] := by
  decide

/-- `HeaderFormulasDecode`: payloads of the lengths the fields say, at length 0 and above. -/
theorem witness_headerFormulas :
    ([0xAE#8] : List Byte).length = (1#16).toNat ∧ ([0x00#8, 0x62#8] : List Byte).length = (2#8).toNat ∧
    ([] : List Byte).length = (0#16).toNat := by decide

/-- `CommandLengthIsKnownFromTheHeader`: headers of each case of the length. -/
theorem witness_commandLength :
    1 + (0x32900003#32).toNat % 65536 = 4 ∧ 1 + (0x42900201#32).toNat / 256 % 256 = 3 ∧
    0x42900201#32 &&& 0xF80F0000#32 = 0x40000000#32 ∧ 0x50001801#32 &&& 0xF80F0000#32 = 0x50000000#32 ∧
    0x71000002#32 &&& 0xFFFF0000#32 = 0x71000000#32 := by decide

/-- `BadPayloadWordIsIllegal`: vector F8, and the lowest bad word in front of a good one. -/
theorem witness_badPayload :
    selectRow 0x32900002#32 = some .busWrite ∧ Opcode.busWrite.payloadWords 0x32900002#32 = [0x12#32].length + 1 + 0 ∧
    256 ≤ (0x134#32).toNat ∧ 256 ≤ (0x100#32).toNat ∧ selectRow 0x42900201#32 = some .busWriteRead ∧
    Opcode.busWriteRead.payloadWords 0x42900201#32 = 0 + 1 + [0xFF#32].length := by decide

/-- `FromResetOnlyAcquireDoesNotFault`: an ACQUIRE and a longer command on port 1's channel. -/
theorem witness_fromReset :
    Config.standard.hasPort .p0 = true ∧ Config.standard.hasPort .p1 = true ∧
    Instr.acquire.wf = true ∧ (Instr.busWrite 0x29#7 [1#8]).wf = true ∧
    (⟨[[], [0x10000000#32, 0x20000000#32]]⟩ : PerPort (List Word)).get .p1 = encode .acquire ++ [0x20000000#32] ∧
    (⟨[[], [0x32900001#32, 0x01#32]]⟩ : PerPort (List Word)).get .p1 = encode (.busWrite 0x29#7 [1#8]) ++ [] := by decide

/-- The gate's statements: a port that is not owner of a free gate, or of another's, and one that is. `AtMostOneOwner` is met
by the owner twice. -/
theorem witness_gate :
    (free .p0).isOwner (free .p0).presenting = false ∧ (held .p1 .p0).isOwner (held .p1 .p0).presenting = false ∧
    (held .p1 .p1).locked = true ∧ (held .p1 .p1).owner = (held .p1 .p1).presenting ∧
    ¬ ((held .p1 .p0).locked = true ∧ (held .p1 .p0).owner = (held .p1 .p0).presenting) ∧
    (held .p1 .p1).isOwner .p1 = true := by decide

/-- The frames: each command answers a next state, here at port 1 with the gate free. -/
theorem witness_frames :
    ∀ i, (∃ t, exec i (free .p1) = .next t) := by
  intro i; cases i <;> exact ⟨_, rfl⟩

/-- `GrantStep`: vector G2. -/
theorem witness_grant :
    { free .p0 with pstate := ⟨[.idle, .acqWait]⟩, moves := [.grant .p1] }.moves = .grant .p1 :: [] ∧
    (free .p0).locked = false ∧ { free .p0 with pstate := ⟨[.idle, .acqWait]⟩ }.pstate.get .p1 = .acqWait := by decide

/-- The launches: owners of each convention, and a write-read with two parts of the least and of the greatest length. -/
theorem witness_launches :
    (held .p1 .p1).cfg.conv.get (held .p1 .p1).presenting = .reg16 ∧ (held .p1 .p1).owner = (held .p1 .p1).presenting ∧
    (held .p0 .p0).cfg.conv.get (held .p0 .p0).presenting = .ctrl8 ∧ (held .p0 .p0).owner = (held .p0 .p0).presenting ∧
    (held .p0 .p0).locked = true ∧ [0x10#8] ≠ [] ∧ 1#8 ≠ 0#8 ∧ 255#8 ≠ 0#8 := by decide

/-- `BusCommandsAreCheckedInOrder`: a state for each of the three refusals, and for each of its cases. -/
theorem witness_checks :
    (free .p1).locked = false ∧ (held .p0 .p1).owner ≠ (held .p0 .p1).presenting ∧
    ((Instr.reg16Read 0#16).opcode ∈ [Opcode.reg16Write, .reg16Read] ∧ (held .p0 .p0).cfg.conv.get .p0 = .ctrl8) ∧
    ((Instr.ctrlWriteCmd []).opcode ∈ [Opcode.ctrlWriteCmd, .ctrlWriteData] ∧ (held .p1 .p1).cfg.conv.get .p1 = .reg16) ∧
    (∃ addr wbytes rlen, Instr.busWriteRead 0x29#7 [] 1#8 = .busWriteRead addr wbytes rlen ∧ (wbytes = [] ∨ rlen = 0#8)) ∧
    (∃ addr wbytes rlen, Instr.busWriteRead 0x29#7 [1#8] 0#8 = .busWriteRead addr wbytes rlen ∧ (wbytes = [] ∨ rlen = 0#8)) :=
  ⟨rfl, by decide, by decide, by decide, ⟨_, _, _, rfl, .inl rfl⟩, ⟨_, _, _, rfl, .inr rfl⟩⟩

/-- `FramerArithmetic`: the framed command with the longest payload is well-formed. -/
theorem witness_framer :
    (Instr.ctrlWriteCmd (List.replicate 65535 0#8)).wf = true ∧
    frame cfg .p0 (.ctrlWriteCmd (List.replicate 65535 0#8)) = some (ctrlWrite cfg .p0 0x00#8 (List.replicate 65535 0#8)) :=
  ⟨test_wf_longest.2.2.1, rfl⟩

/-- `FramerAndRawCommandsAgree`: payloads of 65534 and of 65535 bytes; with the control byte in front the first still has an
encoding as a raw command, the second has none (log entry 19). -/
theorem witness_framerAndRaw :
    (held .p1 .p1).cfg.conv.get (held .p1 .p1).presenting = .reg16 ∧
    (held .p0 .p0).cfg.conv.get (held .p0 .p0).presenting = .ctrl8 ∧
    (Instr.ctrlWriteCmd (List.replicate 65534 0#8)).wf = true ∧
    (Instr.busWrite 0x3C#7 (0x00#8 :: List.replicate 65534 0#8)).wf = true ∧
    (Instr.ctrlWriteCmd (List.replicate 65535 0#8)).wf = true ∧
    (Instr.busWrite 0x3C#7 (0x00#8 :: List.replicate 65535 0#8)).wf = false := by
  refine ⟨by decide, by decide, wf_of_payload_le ?_, wf_of_payload_le ?_, wf_of_payload_le ?_, eq_false_of_ne_true fun h =>
    absurd (payload_le_of_wf h) ?_⟩ <;>
    simp only [Instr.payload, List.length_cons, List.length_replicate] <;> decide

/-- `StepRunsTheDecodedCommand`, `IllegalEncodingIsRefused`, `WaitingPortAcceptsNothing`: a turn of each kind. -/
theorem witness_turns :
    decode ((turnOf (held .p1 .p0) .p1 [0x60006200#32, 0x20000000#32]).cmd.get .p1) = .instr (.reg16Read 0x0062#16) [0x20000000#32] ∧
    (turnOf (held .p1 .p0) .p1 [0x60006200#32]).pstate.get .p1 = .idle ∧
    (turnOf (held .p1 .p0) .p1 [0x60006200#32]).cfg.hasPort .p1 = true ∧ (free .p0).cfg.nReq ≤ 2 ∧
    decode ((turnOf (held .p1 .p0) .p1 [0x60006201#32]).cmd.get .p1) = .illegal .header [0x60006201#32] [] ∧
    decode ((turnOf (held .p1 .p0) .p1 [0x32900001#32, 0x100#32]).cmd.get .p1) =
      .illegal .payload [0x32900001#32, 0x100#32] [] ∧
    (reading .xfer (.present .p1)).pstate.get .p1 ≠ .idle ∧
    decode ((turnOf (held .p1 .p0) .p1 [0x32900001#32]).cmd.get .p1) = .incomplete := by decide

/-- `StartHandsTheOperationOver`, `FinishDeliversTheAnswer`, `AnswerIsLatched`: the phases, and an answer of each shape. -/
theorem witness_sequencer :
    (reading .frame .start).moves = .start :: [] ∧ (reading .frame .start).phase = .frame ∧
    (reading .resp .finish).moves = .finish :: [] ∧ (reading .resp .finish).ans = .ok [0x2A#8] ∧
    { reading .resp .finish with ans := .err 127#7 }.ans = .err 127#7 ∧
    (reading .xfer .start).cur.kind = .writeRead ∧ [0x2A#8].length = (reading .xfer .start).cur.rlen.toNat ∧
    { (reading .xfer .start).cur with kind := .write }.kind = .write ∧ 1 ≤ (1#7).toNat ∧
    (127#7).toNat ≤ (reading .xfer .start).cfg.errLast := by decide

/-- `DisabledTurnsChangeNothing`: a turn outside each enabling condition. -/
theorem witness_disabled :
    (held .p1 .p1).locked = true ∧ (free .p1).pstate.get .p0 ≠ .acqWait ∧ (reading .xfer .start).phase ≠ .frame ∧
    { cfg with errLast := 3 }.errLast < (4#7).toNat ∧ (reading .frame .finish).phase ≠ .resp ∧ (reading .resp (.answer (.ok []))).phase ≠ .xfer ∧
    (reading .xfer (.answer (.ok []))).cur.kind = .writeRead ∧
    ([] : List Byte).length ≠ (reading .xfer (.answer (.ok []))).cur.rlen.toNat := by decide

/-- Any state of `reading` but one in phase `IDLE` has INV1, INV2 and INV3. -/
theorem reading_control (p : Phase) (m : Move) (h : p ≠ .idle) : (reading p m).ControlInv where
  inv1 := fun _ => ⟨rfl, rfl, rfl⟩
  inv2 := fun r h' => match r, h' with
    | 1, _ => ⟨h, rfl⟩
  inv3 := fun r h' => by rcases r with _ | _ | r <;> cases h'

/-- A state of the owner of an idle gate has them too. -/
theorem held_control (q r : Port) (ws : List Word) : (turnOf (held q r) r ws).ControlInv where
  inv1 := fun h => absurd rfl h
  inv2 := fun r h' => by rcases r with _ | _ | r <;> cases h'
  inv3 := fun r h' => by rcases r with _ | _ | r <;> cases h'

/-- `PhaseAdvancesInOrder`: a state with INV1 to INV3 and a step that changes the phase, from each of the four. -/
theorem witness_phases :
    ((turnOf (held .p1 .p1) .p1 [0x60006200#32]).ControlInv ∧ ∃ t, step (turnOf (held .p1 .p1) .p1 [0x60006200#32]) = .next t ∧
      t.phase ≠ (turnOf (held .p1 .p1) .p1 [0x60006200#32]).phase) ∧
    ((reading .frame .start).ControlInv ∧ ∃ t, step (reading .frame .start) = .next t ∧
      t.phase ≠ (reading .frame .start).phase) ∧
    ((reading .xfer (.answer (.err 1#7))).ControlInv ∧ ∃ t, step (reading .xfer (.answer (.err 1#7))) = .next t ∧
      t.phase ≠ (reading .xfer (.answer (.err 1#7))).phase) ∧
    ((reading .resp .finish).ControlInv ∧ ∃ t, step (reading .resp .finish) = .next t ∧
      t.phase ≠ (reading .resp .finish).phase) :=
  ⟨⟨held_control _ _ _, _, rfl, by decide⟩, ⟨reading_control _ _ (by decide), _, rfl, by decide⟩,
    ⟨reading_control _ _ (by decide), _, rfl, by decide⟩, ⟨reading_control _ _ (by decide), _, rfl, by decide⟩⟩

/-- `OnlyAnAnswerLeavesXfer`: in phase `XFER`, with a turn that is not the transport's. -/
theorem witness_noTimeout :
    (reading .xfer (.present .p0)).ControlInv ∧ (∀ a, (reading .xfer (.present .p0)).moves.head? ≠ some (.answer a)) ∧
    ∃ t, step (reading .xfer (.present .p0)) = .next t :=
  ⟨reading_control _ _ (by decide), fun _ h => (by cases h), ⟨_, rfl⟩⟩

/-- `OwnershipChangesOnlyByGrantAndRelease`: a step each way. -/
theorem witness_ownership :
    (∃ t, step { free .p0 with pstate := ⟨[.acqWait, .acqWait]⟩, moves := [.grant .p1] } = .next t ∧
      t.isOwner .p1 ≠ { free .p0 with pstate := ⟨[.acqWait, .acqWait]⟩, moves := [.grant .p1] }.isOwner .p1) ∧
    (∃ t, step (turnOf (held .p1 .p0) .p1 [0x20000000#32]) = .next t ∧
      t.isOwner .p1 ≠ (turnOf (held .p1 .p0) .p1 [0x20000000#32]).isOwner .p1) :=
  ⟨⟨_, rfl, by decide⟩, ⟨_, rfl, by decide⟩⟩

/-- Port 1's read in phase `XFER` while port 0's ACQUIRE waits, with the history that led there (program PE); the turn is the
transport's. -/
def mid : State :=
  { reading .xfer (.answer (.ok [0x2A#8])) with
    pstate := ⟨[.acqWait, .op]⟩
    fault := ⟨[0b00010#5, 0b00000#5]⟩
    rsp := ⟨[[0x81000000#32], [0x00000000#32]]⟩
    hist := [.cmd .p0 (.legal .release), .resp .p0 0x81#8 [], .cmd .p1 (.legal .acquire), .grant .p1, .resp .p1 0x00#8 [],
      .cmd .p1 (.legal (.reg16Read 0x0062#16)), .call .p1 (.writeRead 0x29#7 [0x00#8, 0x62#8] 1#8), .cmd .p0 (.legal .acquire)] }

/-- `ControlInvariantsAreKept`, `PendingAcquireWaitsWhileTheGateIsHeld`: INV1, INV2 and INV3 with a waiting port. -/
theorem mid_control : mid.ControlInv where
  inv1 := fun _ => ⟨rfl, rfl, rfl⟩
  inv2 := fun r h' => match r, h' with
    | 1, _ => ⟨by decide, rfl⟩
  inv3 := fun r h' => by rcases r with _ | _ | r <;> first | decide | cases h'

/-- The statements about what every step keeps: every invariant holds at `mid`, where a step goes on. -/
theorem witness_invariants :
    mid.ControlInv ∧ mid.OneTransaction ∧ mid.CallsInScope ∧ mid.ResponsesCounted ∧ mid.FollowsProtocol ∧ mid.ResponsesSent ∧
    mid.FaultsRecorded ∧ mid.AnswerFits ∧ mid.ResponsesWellShaped ∧ ∃ t, step mid = .next t := by
  refine ⟨mid_control, ⟨by decide, by decide⟩, ⟨by decide, by decide⟩, ?_, ?_, ?_, ?_, ?_, ?_, ⟨_, rfl⟩⟩
  · intro r
    rcases r with _ | _ | r
    · decide
    · decide
    · simp [mid, Event.isCmd, Event.isResp, PerPort.get, PState.outstanding]
  · intro r
    rcases r with _ | _ | r
    · exact ⟨.sent (.legal .acquire), by decide, rfl⟩
    · exact ⟨.called (.reg16Read 0x0062#16), by decide, rfl, rfl, rfl⟩
    · exact ⟨.ready, by simp [mid, portAfter, portStep], rfl⟩
  · intro r
    rcases r with _ | _ | r
    · decide
    · decide
    · simp [mid, Event.sent, PerPort.get]
  · intro r k
    rcases r with _ | _ | r
    · cases k <;> decide
    · cases k <;> decide
    · simp [mid, Event.isRefusal, PerPort.get, Port.p0, Port.p1]
  · intro h; cases h
  · intro e he
    simp only [mid, List.mem_cons, List.not_mem_nil, or_false] at he
    rcases he with rfl | rfl | rfl | rfl | rfl | rfl | rfl | rfl <;> simp [Event.WellShaped, statusOk]

/-- `ResponseShapeIsKept`: in phase `RESP` the latched answer fits. -/
theorem witness_answerFits : (reading .resp .finish).AnswerFits ∧ (reading .resp .finish).ResponsesWellShaped :=
  ⟨fun _ => by decide, fun _ h => by cases h⟩

/-- `PendingAcquireWaitsWhileTheGateIsHeld`: port 0 waits at `mid`. -/
theorem witness_pending :
    mid.ControlInv ∧ mid.locked = true ∧ mid.pstate.get .p0 = .acqWait ∧ ∃ t, step mid = .next t :=
  ⟨mid_control, rfl, rfl, _, rfl⟩

/-- `FaultBitsAreSticky`, `NonOwnerReachesNoBus`, `RequesterTouchesOnlyItsOwnPort`,
`ConfigurationNeverChanges`, `HistoryOnlyGrows`: their hypotheses at `mid` and at turns of port 0 beside it. -/
theorem witness_wholeMachine :
    (mid.fault.get .p0).getLsbD ProtocolFault.notOwner.bit = true ∧
    (turnOf (held .p1 .p1) .p0 [0x20000000#32]).moves.head? = some (.present .p0) ∧ Port.p1 ≠ .p0 ∧
    (turnOf (held .p1 .p1) .p0 [0x20000000#32]).isOwner .p0 = false ∧
    (after (step (turnOf (held .p1 .p1) .p0 [0x20000000#32]))).cmd.get .p0 ≠
      (turnOf (held .p1 .p1) .p0 [0x20000000#32]).cmd.get .p0 := by decide

/-- `EveryRunKeepsTheInvariants`: a run of two steps in which port 1 gets the gate. -/
theorem witness_run :
    ∃ t, Sys2Proof.core.run 2 (State.reset.withInputs cfg ⟨[[], [0x10000000#32]]⟩ [.present .p1, .grant .p1]) = .next t ∧
      t.isOwner .p1 = true := ⟨_, rfl, by decide⟩

/-- Port 1 is owner and has its read and its RELEASE on the channel; the turns of the read come next. -/
def reads : State :=
  { held .p1 .p0 with
    cmd := ⟨[[], [0x60006200#32, 0x20000000#32]]⟩
    moves := [.present .p1, .start, .answer (.ok [0x2A#8]), .finish] }

/-- `TransactionRunsToItsResponse`: program PA's read, with its answer. -/
theorem witness_transaction :
    (Instr.reg16Read 0x0062#16).wf = true ∧
    frame reads.cfg .p1 (.reg16Read 0x0062#16) = some (.writeRead 0x29#7 [0x00#8, 0x62#8] 1#8) ∧
    reads.cfg.hasPort .p1 = true ∧ reads.isOwner .p1 = true ∧ reads.pstate.get .p1 = .idle ∧
    (∀ v, conventionOf (.reg16Read 0x0062#16) = some v → reads.cfg.conv.get .p1 = v) ∧
    (∀ addr wbytes rlen, Instr.reg16Read 0x0062#16 = .busWriteRead addr wbytes rlen → wbytes ≠ [] ∧ rlen ≠ 0#8) ∧
    reads.cmd.get .p1 = encode (.reg16Read 0x0062#16) ++ [0x20000000#32] ∧
    ((BusOp.writeRead 0x29#7 [0x00#8, 0x62#8] 1#8).latch .p1).fits reads.cfg (.ok [0x2A#8]) = true ∧
    reads.moves = .present .p1 :: .start :: .answer (.ok [0x2A#8]) :: .finish :: [] :=
  ⟨by decide, rfl, by decide, by decide, by decide, fun v h => (by cases h; rfl), fun _ _ _ h => (by cases h), by decide, by decide, rfl⟩

/-- The gate is free, port 1 has the macro's words on its channel, and the turns of the scope come next; the transport
answers `a`. -/
def scope (a : Answer) : State :=
  { free .p1 with
    cmd := ⟨[[], [0x10000000#32, 0x50001801#32, 0x20000000#32]]⟩
    moves := [.present .p1, .grant .p1, .present .p1, .start, .answer a, .finish, .present .p1] }

/-- `RegisterWriteInItsOwnScope`: program PA's first scope, with an answer of each shape. -/
theorem witness_scope (a : Answer) :
    (scope a).cfg.hasPort .p1 = true ∧ (scope a).locked = false ∧ (scope a).pstate.get .p1 = .idle ∧ (scope a).phase = .idle ∧
    (scope a).cfg.conv.get .p1 = .reg16 ∧ 
    (Answer.ok [] = .ok [] ∨ ∃ e : BitVec 7, (scope a).cfg.isError e = true ∧ Answer.ok [] = .err e) ∧
    (Answer.err 1#7 = .ok [] ∨ ∃ e : BitVec 7, (scope a).cfg.isError e = true ∧ Answer.err 1#7 = .err e) ∧
    (scope a).cmd.get .p1 = (macroWr16 0x0018#16 0x01#8).flatMap encode ++ [] ∧
    (scope a).moves =
      [.present .p1, .grant .p1, .present .p1, .start, .answer a, .finish, .present .p1] ++ [] :=
  ⟨rfl, rfl, rfl, rfl, rfl, .inl rfl, .inr ⟨1#7, rfl, rfl⟩, rfl, rfl⟩

/-- The turns of an execution that begins with port 1's read in phase `FRAME` while port 0 waits: the read ends, port 1
releases, port 0 is granted the gate and releases; after that nothing is left to do. -/
def fairMove : Nat → Move
  | 0 => .start
  | 1 => .answer (.ok [0x2A#8])
  | 2 => .finish
  | 3 => .present .p1
  | 4 => .grant .p0
  | 5 => .present .p0
  | _ + 6 => .finish

/-- Its first state: each port has its RELEASE on the channel. -/
def fairFirst : State :=
  { reading .frame .start with pstate := ⟨[.acqWait, .op]⟩, cmd := ⟨[[0x20000000#32], [0x20000000#32]]⟩, moves := [] }

/-- Its events. -/
def fairHist : List Event :=
  [.call .p1 (.writeRead 0x29#7 [0x00#8, 0x62#8] 1#8), .ret (.ok [0x2A#8]), .resp .p1 0x00#8 [0x2A#8],
   .cmd .p1 (.legal .release), .resp .p1 0x00#8 [], .grant .p0, .resp .p0 0x00#8 [],
   .cmd .p0 (.legal .release), .resp .p0 0x00#8 []]

/-- The state after port 1's read. -/
def fairRead : State :=
  { fairFirst with
    phase := .idle, pstate := ⟨[.acqWait, .idle]⟩, hist := fairHist.take 3, rsp := ⟨[[], [1#32, 0x2A#32]]⟩ }

/-- The state after port 1's RELEASE. -/
def fairFree : State :=
  { fairRead with
    locked := false, hist := fairHist.take 5, cmd := ⟨[[0x20000000#32], []]⟩, rsp := ⟨[[], [1#32, 0x2A#32, 0#32]]⟩ }

/-- The state after port 0's grant. -/
def fairGranted : State :=
  { fairFree with
    locked := true, owner := .p0, pstate := ⟨[.idle, .idle]⟩, hist := fairHist.take 7
    rsp := ⟨[[0#32], [1#32, 0x2A#32, 0#32]]⟩ }

/-- The state after port 0's RELEASE, in which the execution stays. -/
def fairLast : State :=
  { fairGranted with
    locked := false, hist := fairHist, cmd := ⟨[[], []]⟩, rsp := ⟨[[0#32, 0#32], [1#32, 0x2A#32, 0#32]]⟩, presenting := .p0 }

/-- Its states. -/
def fairState : Nat → State
  | 0 => fairFirst
  | 1 => { fairFirst with phase := .xfer, hist := fairHist.take 1 }
  | 2 => { fairFirst with phase := .resp, hist := fairHist.take 2 }
  | 3 => fairRead
  | 4 => fairFree
  | 5 => fairGranted
  | _ + 6 => fairLast

theorem fair_next : ∀ n, step ((fairState n).prepared .p0 [] (fairMove n)) = .next (fairState (n + 1))
  | 0 => rfl
  | 1 => rfl
  | 2 => rfl
  | 3 => rfl
  | 4 => rfl
  | 5 => rfl
  | _ + 6 => (rfl : step (fairLast.prepared .p0 [] .finish) = .next fairLast)

/-- The execution. -/
def fair : Execution where
  state := fairState
  move := fairMove
  supplier := fun _ => .p0
  words := fun _ => []
  next := fair_next

theorem fairState_ge {n : Nat} (h : 6 ≤ n) : fairState n = fairLast := by
  obtain ⟨k, rfl⟩ := Nat.exists_eq_add_of_le' h
  rfl

/-- `FairExecutionsMakeProgress`: the execution meets every premise, with an operation in the sequencer and a port that waits
at its beginning, and a free gate with a pending ACQUIRE after port 1's RELEASE. -/
theorem witness_fair :
    (fair.state 0).ControlInv ∧ fair.FairGate ∧ fair.FairSequencer ∧ fair.TransportAnswers ∧ fair.OwnersRelease ∧
    fair.ServesPort .p0 ∧ (fair.state 0).phase ≠ .idle ∧ (fair.state 0).cur.req = .p1 ∧
    (fair.state 0).pstate.get .p0 = .acqWait ∧ (fair.state 4).locked = false ∧ (fair.state 4).pstate.get .p0 = .acqWait := by
  have quiet : ∀ r, fairLast.pstate.get r ≠ .acqWait := fun r h => by rcases r with _ | _ | r <;> cases h
  have late : ∀ n, fairState (max n 6) = fairLast := fun n => fairState_ge (Nat.le_max_right n 6)
  refine ⟨⟨fun _ => ⟨rfl, rfl, rfl⟩, fun r h => ?_, fun r h => ?_⟩, fun n h => ?_, fun n => ⟨fun h => ?_, fun h => ?_⟩,
    fun n h => ?_, fun n _ => ?_, fun n h => ?_, by decide, rfl, rfl, rfl, rfl⟩
  · rcases r with _ | _ | r
    · cases h
    · exact ⟨by decide, rfl⟩
    · cases h
  · rcases r with _ | _ | r
    · decide
    · cases h
    · cases h
  · obtain ⟨r, hr⟩ := h (max n 6) (Nat.le_max_left n 6)
    exact absurd ((State.grantEnabled_iff _ r).mp hr).2 (by show (fairState (max n 6)).pstate.get r ≠ _; rw [late]; exact quiet r)
  · have h' : (fairState (max n 6)).startEnabled = true := h _ (Nat.le_max_left n 6)
    rw [late] at h'
    exact absurd h' (by decide)
  · have h' : (fairState (max n 6)).finishEnabled = true := h _ (Nat.le_max_left n 6)
    rw [late] at h'
    exact absurd h' (by decide)
  · have h' : (fairState n).phase = .xfer := h
    match n, h' with
    | 1, _ => exact ⟨1, Nat.le_refl 1, _, rfl, by decide⟩
    | n + 6, h' => cases h'
  · exact ⟨max n 6, Nat.le_max_left n 6, by show (fairState (max n 6)).locked = false; rw [late]; rfl⟩
  · have h' : (fairState (max n 6)).pstate.get .p0 = .acqWait := h _ (Nat.le_max_left n 6)
    rw [late] at h'
    exact absurd h' (quiet .p0)

/-- PE, R90: there is an execution in which the transport never answers, so that the block stays in `XFER`, the owner in
`P_OP` and the other port waiting for ever. -/
theorem test_stuck_execution :
    ∃ x : Execution, ∀ n, (x.state n).phase = .xfer ∧ (x.state n).pstate.get .p1 = .op ∧
      (x.state n).pstate.get .p0 = .acqWait ∧ (x.state n).locked = true :=
  ⟨{ state := fun _ => { reading .xfer .start with pstate := ⟨[.acqWait, .op]⟩, moves := [] }
     move := fun _ => .start, supplier := fun _ => .p0, words := fun _ => [], next := fun _ => rfl },
    fun _ => ⟨rfl, rfl, rfl, rfl⟩⟩

/-- `ResponseWordFields`: the longest answer the block can deliver is within its bound. -/
theorem witness_responseWord : (List.replicate 255 (0#8 : Byte)).length < 65536 := by
  simp only [List.length_replicate]; decide

end Sys2Proof.Tests
end

section
/-!
PROOFS. The statements of the family 00_scope: what R5 fixes at reset, what a waiting port and the transport's answer do, and
that the history and the channels move in one direction only.
-/

namespace Sys2Proof

/-! ## What decoding leaves of a channel -/

/-- The words an illegal encoding consumes and the words after them are the channel (R61). -/
theorem decode_eq_illegal {ws words rest : List Word} {why : Illegal} (h : decode ws = .illegal why words rest) :
    ws = words ++ rest := by
  cases ws with
  | nil => cases h
  | cons w ws =>
    simp only [decode] at h
    cases ho : selectRow w with
    | none =>
      simp only [ho, Decoded.illegal.injEq] at h
      obtain ⟨-, rfl, rfl⟩ := h
      rfl
    | some o =>
      simp only [ho, decodeRow] at h
      split at h
      · split at h
        · cases h
        · cases h
          simp
      · cases h

theorem decode_instr_suffix {ws rest : List Word} {i : Instr} (h : decode ws = .instr i rest) : rest <:+ ws := by
  obtain ⟨w, o, bs, -, -, -, rfl⟩ := decode_eq_instr h
  exact (List.suffix_append ..).trans (List.suffix_cons ..)

theorem decode_illegal_suffix {ws words rest : List Word} {why : Illegal} (h : decode ws = .illegal why words rest) :
    rest <:+ ws :=
  ⟨words, (decode_eq_illegal h).symm⟩

/-- The two open control bytes differ, whatever they are: their distance is between 1 and 255 (R5, R101). -/
theorem Config.standard_distinguishing : Config.standard.Distinguishing := by
  have hg := Config.freeCtrlGap.isLt
  show Config.freeCtrlCommand ≠ Config.freeCtrlCommand + BitVec.ofNat 8 (Config.freeCtrlGap.val + 1)
  bv_omega

end Sys2Proof

namespace Sys2Proof.Machine

/-! ## What a step does to the history and the channels -/

/-- A step appends to the history and takes nothing away (R8). -/
theorem Stepped.hist_prefix {s t : State} {m : Option Move} (h : Stepped s m t) : s.hist <+: t.hist := by
  cases h with
  | idle => exact List.prefix_rfl
  | illegal | refused | pending | released | launched | granted | started | answered | finished => simp

/-- A step leaves the channels as they are, or it is a requester's turn and the words left on its channel are the end of
those that stood there (R47, R60). -/
theorem Stepped.cmd_cases {s t : State} {m : Option Move} (h : Stepped s m t) :
    t.cmd = s.cmd ∨ ∃ r rest, m = some (.present r) ∧ rest <:+ s.cmd.get r ∧ t.cmd = s.cmd.set r rest := by
  cases h with
  | idle | granted | started | answered | finished => exact .inl rfl
  | illegal r _ _ rest _ hd => exact .inr ⟨r, rest, rfl, decode_illegal_suffix hd, rfl⟩
  | refused r _ rest _ _ hd | pending r rest _ hd | released r rest _ hd | launched r _ rest _ _ hd =>
    exact .inr ⟨r, rest, rfl, decode_instr_suffix hd, rfl⟩

/-- Settles O44: the history by `Stepped.hist_prefix`, the channels by `Stepped.cmd_cases`. -/
theorem historyOnlyGrows : Obligations.HistoryOnlyGrows := by
  intro s t h
  have hs := step_stepped h
  refine ⟨hs.hist_prefix, fun r hne => ?_⟩
  obtain hc | ⟨q, rest, hm, hsuf, hc⟩ := hs.cmd_cases
  · exact absurd (congrArg (·.get r) hc) hne
  · by_cases e : r = q
    · subst e
      exact ⟨hm, by simpa [hc] using hsuf⟩
    · exact absurd (by simp [hc, PerPort.get_set_ne _ _ e]) hne

/-! ## The configuration at reset -/

/-- Settles O9: the open control bytes by `Config.standard_distinguishing`, every other parameter by its value. -/
theorem resetConfigurationIsTheSources : Obligations.ResetConfigurationIsTheSources :=
  ⟨rfl, rfl, rfl, rfl, rfl, Config.standard_distinguishing, rfl, by decide, rfl, rfl, rfl, rfl,
    Config.isError_iff Config.standard, by decide, by decide, by decide⟩

/-! ## Turns that wait, and the transport's answer -/

/-- A requester's turn does nothing when the port may not present (R15, R142). -/
theorem State.present_of_not_mayPresent {s : State} {r : Port} (h : ¬ s.mayPresent r = true) : s.present r = .next s :=
  if_neg h

/-- A requester's turn does nothing when no whole command stands on its channel (log entry 2). -/
theorem State.present_of_incomplete {s : State} {r : Port} (h : decode (s.cmd.get r) = .incomplete) :
    s.present r = .next s := by
  simp [State.present, h]

/-- Settles O30: the port may not present, or there is nothing whole to present. -/
theorem waitingPortAcceptsNothing : Obligations.WaitingPortAcceptsNothing := by
  intro s r ms hm h
  rw [step_of_moves hm]
  obtain hp | hd | hn := h
  · exact State.present_of_not_mayPresent fun hp' => hp ((State.mayPresent_iff ..).mp hp').2
  · exact State.present_of_incomplete hd
  · exact State.present_of_not_mayPresent fun hp' =>
      Nat.not_lt.mpr hn ((Config.hasPort_iff ..).mp ((State.mayPresent_iff ..).mp hp').1)

/-- The answers R88 allows to the latched operation. -/
theorem Cur.fits_iff (c : Cur) (cfg : Config) (a : Answer) :
    c.fits cfg a = true ↔
      (c.kind = .write ∧ a = .ok []) ∨
      (c.kind = .writeRead ∧ ∃ bs, a = .ok bs ∧ bs.length = c.rlen.toNat) ∨
      (∃ e : BitVec 7, a = .err e ∧ 1 ≤ e.toNat ∧ e.toNat ≤ cfg.errLast) := by
  cases a with
  | ok bs => cases hk : c.kind <;> simp [Cur.fits, hk]
  | err e => simp [Cur.fits, Config.isError_iff]

/-- The transport's turn with an answer that is enabled takes the step `answer` (R88). -/
theorem State.turn_answer {s : State} {a : Answer} (h : s.answerEnabled a = true) :
    s.turn (.answer a) = .next (s.answer a) :=
  congrArg Host.Outcome.next (if_pos h)

/-- Settles O32: the answer fits the latch, so the transport's turn takes the step `answer`. -/
theorem answerIsLatched : Obligations.AnswerIsLatched := by
  intro s a ms hm hp ha
  rw [step_of_moves hm]
  exact State.turn_answer ((State.answerEnabled_iff ..).mpr ⟨hp, (Cur.fits_iff ..).mpr ha⟩)

end Sys2Proof.Machine
end

section
/-!
PROOFS. The statements of the family 10_state: the invariants of R23 that every step keeps and every run from reset therefore
has. Each is kept by a case analysis of `Stepped`; an invariant of the history first says what it asks of the events a step
appends.
-/

namespace Sys2Proof

/-- What a per-port register holds after a write: the value written at its port, what was there at any other. -/
theorem PerPort.get_set_eq_iff {α : Type} [Inhabited α] {x : PerPort α} {r q : Port} {v w : α} :
    (x.set r v).get q = w ↔ (q = r ∧ v = w) ∨ (q ≠ r ∧ x.get q = w) := by
  by_cases e : q = r <;> simp [PerPort.get_set, e]

end Sys2Proof

namespace Sys2Proof.Machine

/-! ## INV1 to INV3 -/

/-- INV1 to INV3 speak of the gate, the port states, the phase and the operation latch only. -/
theorem State.ControlInv.congr {s t : State} (h : s.ControlInv)
    (he : t.locked = s.locked ∧ t.owner = s.owner ∧ t.pstate = s.pstate ∧ t.phase = s.phase ∧ t.cur = s.cur) :
    t.ControlInv := by
  obtain ⟨hl, ho, hs, hp, hc⟩ := he
  exact ⟨by simpa only [hl, ho, hs, hp, hc] using h.inv1, by simpa only [hs, hp, hc] using h.inv2,
    by simpa only [hl, ho, hs] using h.inv3⟩

theorem State.ControlInv.popped {s : State} (h : s.ControlInv) : s.popped.ControlInv := h.congr (by simp)

/-- A transaction in flight is the owner's, whose port is in `P_OP`: while the owner's port is idle there is none. -/
theorem State.ControlInv.phase_idle {s : State} {r : Port} (h : s.ControlInv) (ho : s.isOwner r = true)
    (hi : s.pstate.get r = .idle) : s.phase = .idle := by
  by_contra hp
  obtain ⟨-, howner, hop⟩ := h.inv1 hp
  obtain ⟨-, rfl⟩ := (s.isOwner_iff r).mp ho
  rw [← howner, hi] at hop
  cases hop

/-- The port of a transaction in flight is in `P_OP`. -/
theorem State.ControlInv.req_op {s : State} (h : s.ControlInv) (hp : s.phase ≠ .idle) : s.pstate.get s.cur.req = .op := by
  obtain ⟨-, -, hop⟩ := h.inv1 hp
  exact hop

/-- No other port than that of the operation latch is in `P_OP`. -/
theorem State.ControlInv.ne_op {s : State} {q : Port} (h : s.ControlInv) (hq : q ≠ s.cur.req) : s.pstate.get q ≠ .op :=
  fun ho => hq (h.inv2 q ho).2.symm

/-- While the gate is free there is no transaction in flight. -/
theorem State.ControlInv.phase_idle_of_free {s : State} (h : s.ControlInv) (hl : s.locked = false) : s.phase = .idle := by
  by_contra hp
  obtain ⟨hl', -, -⟩ := h.inv1 hp
  exact Bool.false_ne_true (hl.symm.trans hl')

/-- The port of the transaction in flight is in `P_OP`, so it is none of the ports that are not. -/
theorem State.ControlInv.req_ne {s : State} {r : Port} (h : s.ControlInv) (hr : s.pstate.get r ≠ .op)
    (hp : s.phase ≠ .idle) : s.cur.req ≠ r :=
  fun e => hr (e ▸ h.req_op hp)

theorem State.ControlInv.stepped {s t : State} {m : Option Move} (h : s.ControlInv) (hs : Stepped s m t) : t.ControlInv := by
  cases hs with
  | idle => exact h
  | illegal | refused => exact h.congr (by simp)
  | started hp | answered _ hp =>
    have hne : s.phase ≠ .idle := by simp [hp]
    exact ⟨by simpa using h.inv1 hne, fun q hq => by simpa using (h.inv2 q hq).2, by simpa using h.inv3⟩
  | pending r _ hi _ ho =>
    refine ⟨fun hp => ?_, fun q hq => ?_, fun q hq => ?_⟩
    · have hp : s.phase ≠ .idle := by simpa using hp
      have hne : s.cur.req ≠ r := h.req_ne (by simp [hi]) hp
      simpa [PerPort.get_set_ne _ _ hne] using h.inv1 hp
    · have hq : q ≠ r ∧ s.pstate.get q = .op := by simpa [PerPort.get_set_eq_iff] using hq
      simpa using h.inv2 q hq.2
    · obtain rfl | e := eq_or_ne q r
      · simpa [State.isOwner] using ho
      · simpa using h.inv3 q (by simpa [PerPort.get_set_ne _ _ e] using hq)
  | released r _ hi _ ho =>
    have hp : s.phase = .idle := h.phase_idle ho hi
    exact ⟨by simp [hp], by simpa using h.inv2, by simp⟩
  | launched r _ _ _ hi _ ho =>
    obtain ⟨hl, howner⟩ := (s.isOwner_iff r).mp ho
    have hp : s.phase = .idle := h.phase_idle ho hi
    refine ⟨by simp [hl, howner], fun q hq => ?_, fun q hq => ?_⟩
    · obtain rfl | e := eq_or_ne q r
      · simp
      · exact absurd hp (h.inv2 q (by simpa [PerPort.get_set_ne _ _ e] using hq)).1
    · have hq : q ≠ r ∧ s.pstate.get q = .acqWait := by simpa [PerPort.get_set_eq_iff] using hq
      simpa using h.inv3 q hq.2
  | granted r hl =>
    have hp : s.phase = .idle := h.phase_idle_of_free hl
    refine ⟨by simp [hp], fun q hq => ?_, fun q hq => ?_⟩
    · have hq : q ≠ r ∧ s.pstate.get q = .op := by simpa [PerPort.get_set_eq_iff] using hq
      exact absurd hp (h.inv2 q hq.2).1
    · have hq : q ≠ r ∧ s.pstate.get q = .acqWait := by simpa [PerPort.get_set_eq_iff] using hq
      simpa using hq.1.symm
  | finished hp =>
    refine ⟨by simp, fun q hq => ?_, fun q hq => ?_⟩
    · have hq : q ≠ s.cur.req ∧ s.pstate.get q = .op := by simpa [PerPort.get_set_eq_iff] using hq
      exact absurd (h.inv2 q hq.2).2.symm hq.1
    · have hq : q ≠ s.cur.req ∧ s.pstate.get q = .acqWait := by simpa [PerPort.get_set_eq_iff] using hq
      simpa using h.inv3 q hq.2

/-- Settles O45: by the cases of a step. -/
theorem controlInvariantsAreKept : Obligations.ControlInvariantsAreKept :=
  fun _ _ h hst => h.popped.stepped (step_stepped hst)

/-! ## INV4: one transaction at a time -/

theorem callOpen_append (o : Bool) (h es : List Event) : callOpen o (h ++ es) = callOpen (callOpen o h) es := by
  induction h generalizing o with
  | nil => rfl
  | cons e h ih => cases e <;> exact ih _

theorem alternates_append (o : Bool) (h es : List Event) :
    alternates o (h ++ es) = (alternates o h && alternates (callOpen o h) es) := by
  induction h generalizing o with
  | nil => rfl
  | cons e h ih => cases e <;> simp [alternates, callOpen, ih, Bool.and_assoc]

theorem State.OneTransaction.popped {s : State} (h : s.OneTransaction) : s.popped.OneTransaction := ⟨h.inv4, h.openInXfer⟩

/-- What INV4 asks of the events `es` a step appends: that they alternate from whether a call is open, which the phase says. -/
theorem State.OneTransaction.of_append {s t : State} (h : s.OneTransaction) (es : List Event) (hh : t.hist = s.hist ++ es)
    (ha : alternates (s.phase == .xfer) es = true) (ho : callOpen (s.phase == .xfer) es = (t.phase == .xfer)) :
    t.OneTransaction := by
  refine ⟨?_, ?_⟩
  · rw [hh, alternates_append, h.inv4, h.openInXfer, ha]
    rfl
  · rw [hh, callOpen_append, h.openInXfer, ho]

theorem State.OneTransaction.stepped {s t : State} {m : Option Move} (h : s.OneTransaction) (hc : s.ControlInv)
    (hs : Stepped s m t) : t.OneTransaction := by
  cases hs with
  | idle => exact h
  | illegal r _ words =>
    exact h.of_append [.cmd r (.illegal words), .resp r ProtocolFault.illegal.status []] (by simp) rfl (by simp [callOpen])
  | refused r i _ k => exact h.of_append [.cmd r (.legal i), .resp r k.status []] (by simp) rfl (by simp [callOpen])
  | pending r => exact h.of_append [.cmd r (.legal .acquire)] (by simp) rfl (by simp [callOpen])
  | released r => exact h.of_append [.cmd r (.legal .release), .resp r statusOk []] (by simp) rfl (by simp [callOpen])
  | launched r i _ _ hi _ ho =>
    have hp := hc.phase_idle ho hi
    exact h.of_append [.cmd r (.legal i)] (by simp) rfl (by simp [hp, callOpen])
  | granted r => exact h.of_append [.grant r, .resp r statusOk []] (by simp) rfl (by simp [callOpen])
  | started hp =>
    exact h.of_append [.call s.cur.req s.cur.op] (by simp) (by simp [hp, alternates]) (by simp [callOpen])
  | answered a hp => exact h.of_append [.ret a] (by simp) (by simp [hp, alternates]) (by simp [callOpen])
  | finished hp =>
    exact h.of_append [.resp s.cur.req s.ans.outcome.1 s.ans.outcome.2] (by simp) rfl (by simp [hp, callOpen])

/-- Settles O46: by the cases of a step; a launch leaves no call open because the phase was `IDLE`. -/
theorem oneTransactionIsKept : Obligations.OneTransactionIsKept :=
  fun _ _ ⟨hc, h⟩ hst => h.popped.stepped hc.popped (step_stepped hst)

/-! ## INV5: no interleaving inside a handle scope -/

theorem callsInScope_append (p : Option Port) (h es : List Event) :
    callsInScope p (h ++ es) = (callsInScope p h && callsInScope (h.foldl Event.holder p) es) := by
  induction h generalizing p with
  | nil => rfl
  | cons e h ih => simp [callsInScope, ih, Bool.and_assoc]

theorem State.holder_eq_some_iff {s : State} {r : Port} : s.holder = some r ↔ s.isOwner r = true := by
  cases hl : s.locked <;> simp [State.holder, State.isOwner, hl]

theorem State.holder_eq_none_iff {s : State} : s.holder = none ↔ s.locked = false := by
  cases hl : s.locked <;> simp [State.holder, hl]

theorem State.CallsInScope.popped {s : State} (h : s.CallsInScope) : s.popped.CallsInScope := ⟨h.inv5, h.holder⟩

/-- What INV5 asks of the events `es` a step appends: that they are in scope from the holder the registers name, and lead to
the holder the registers name after them. -/
theorem State.CallsInScope.of_append {s t : State} (h : s.CallsInScope) (es : List Event) (hh : t.hist = s.hist ++ es)
    (hs : callsInScope s.holder es = true) (ho : es.foldl Event.holder s.holder = t.holder) : t.CallsInScope := by
  have hn : s.hist.foldl Event.holder none = s.holder := h.holder
  refine ⟨?_, ?_⟩
  · rw [hh, callsInScope_append, h.inv5, hn, hs]
    rfl
  · rw [holderAfter, hh, List.foldl_append, hn, ho]

theorem State.CallsInScope.stepped {s t : State} {m : Option Move} (h : s.CallsInScope) (hc : s.ControlInv)
    (hs : Stepped s m t) : t.CallsInScope := by
  cases hs with
  | idle => exact h
  | illegal r _ words =>
    exact h.of_append [.cmd r (.illegal words), .resp r ProtocolFault.illegal.status []] (by simp) rfl
      (by simp [Event.holder, State.holder])
  | refused r i _ k _ _ _ hr =>
    refine h.of_append [.cmd r (.legal i), .resp r k.status []] (by simp) rfl ?_
    have hn : i = .release → s.holder ≠ some r := fun e hp => by simpa [State.holder_eq_some_iff.mp hp] using hr e
    calc
      _ = s.holder := if_neg (by simpa using hn)
      _ = _ := by simp [State.holder]
  | pending r =>
    exact h.of_append [.cmd r (.legal .acquire)] (by simp) rfl (by simp [Event.holder, State.holder])
  | released r _ _ _ ho =>
    refine h.of_append [.cmd r (.legal .release), .resp r statusOk []] (by simp) rfl ?_
    calc
      _ = none := if_pos ⟨rfl, State.holder_eq_some_iff.mpr ho⟩
      _ = _ := by simp [State.holder]
  | launched r i _ _ _ _ _ hf =>
    have hi : i ≠ .release := by rintro rfl; cases hf
    exact h.of_append [.cmd r (.legal i)] (by simp) rfl (by simp [Event.holder, State.holder, hi])
  | granted r hl =>
    have hn : s.holder = none := State.holder_eq_none_iff.mpr hl
    exact h.of_append [.grant r, .resp r statusOk []] (by simp) (by simp [callsInScope, hn])
      (by simp [Event.holder, State.holder])
  | started hp =>
    obtain ⟨hl, howner, -⟩ := hc.inv1 (by simp [hp])
    have hr : s.holder = some s.cur.req := State.holder_eq_some_iff.mpr ((s.isOwner_iff _).mpr ⟨hl, howner⟩)
    exact h.of_append [.call s.cur.req s.cur.op] (by simp) (by simp [callsInScope, hr]) (by simp [Event.holder, State.holder])
  | answered a => exact h.of_append [.ret a] (by simp) rfl (by simp [Event.holder, State.holder])
  | finished =>
    exact h.of_append [.resp s.cur.req s.ans.outcome.1 s.ans.outcome.2] (by simp) rfl (by simp [Event.holder, State.holder])

/-- Settles O47: by the cases of a step; the call of `start` is the owner's by INV1. -/
theorem callsInScopeIsKept : Obligations.CallsInScopeIsKept :=
  fun _ _ ⟨hc, h⟩ hst => h.popped.stepped hc.popped (step_stepped hst)

/-! ## INV7: responses match commands -/

/-- What INV7 asks of the events `es` a step appends about port `r`: that at every other port they count nothing, and at port
`r` what its commands still outstanding change by. -/
theorem State.ResponsesCounted.of_append {s t : State} (h : s.ResponsesCounted) (r : Port) (es : List Event)
    (hh : t.hist = s.hist ++ es)
    (hes : ∀ q ≠ r, es.countP (Event.isCmd q) = es.countP (Event.isResp q) ∧ t.pstate.get q = s.pstate.get q)
    (hr : es.countP (Event.isCmd r) + (s.pstate.get r).outstanding =
      es.countP (Event.isResp r) + (t.pstate.get r).outstanding) : t.ResponsesCounted := by
  intro q
  have hq := h q
  rw [hh, List.countP_append, List.countP_append]
  obtain rfl | e := eq_or_ne q r
  · omega
  · obtain ⟨hcount, hp⟩ := hes q e
    rw [hp]
    omega

theorem State.ResponsesCounted.stepped {s t : State} {m : Option Move} (h : s.ResponsesCounted) (hc : s.ControlInv)
    (hs : Stepped s m t) : t.ResponsesCounted := by
  cases hs with
  | idle => exact h
  | illegal r _ words =>
    exact h.of_append r [.cmd r (.illegal words), .resp r ProtocolFault.illegal.status []] (by simp)
      (fun q e => by simp [Event.isCmd, Event.isResp, e.symm]) (by simp [Event.isCmd, Event.isResp])
  | refused r i _ k =>
    exact h.of_append r [.cmd r (.legal i), .resp r k.status []] (by simp)
      (fun q e => by simp [Event.isCmd, Event.isResp, e.symm]) (by simp [Event.isCmd, Event.isResp])
  | released r =>
    exact h.of_append r [.cmd r (.legal .release), .resp r statusOk []] (by simp)
      (fun q e => by simp [Event.isCmd, Event.isResp, e.symm]) (by simp [Event.isCmd, Event.isResp])
  | pending r _ hi =>
    exact h.of_append r [.cmd r (.legal .acquire)] (by simp)
      (fun q e => by simp [Event.isCmd, Event.isResp, e.symm, PerPort.get_set_ne _ _ e])
      (by simp [Event.isCmd, Event.isResp, hi, PState.outstanding])
  | launched r i _ _ hi =>
    exact h.of_append r [.cmd r (.legal i)] (by simp)
      (fun q e => by simp [Event.isCmd, Event.isResp, e.symm, PerPort.get_set_ne _ _ e])
      (by simp [Event.isCmd, Event.isResp, hi, PState.outstanding])
  | granted r _ hw =>
    exact h.of_append r [.grant r, .resp r statusOk []] (by simp)
      (fun q e => by simp [Event.isCmd, Event.isResp, e.symm, PerPort.get_set_ne _ _ e])
      (by simp [Event.isCmd, Event.isResp, hw, PState.outstanding])
  | started =>
    exact h.of_append s.cur.req [.call s.cur.req s.cur.op] (by simp)
      (fun q _ => by simp [Event.isCmd, Event.isResp]) (by simp [Event.isCmd, Event.isResp])
  | answered a =>
    exact h.of_append s.cur.req [.ret a] (by simp)
      (fun q _ => by simp [Event.isCmd, Event.isResp]) (by simp [Event.isCmd, Event.isResp])
  | finished hp =>
    have hop := hc.req_op (by simp [hp])
    exact h.of_append s.cur.req [.resp s.cur.req s.ans.outcome.1 s.ans.outcome.2] (by simp)
      (fun q e => by simp [Event.isCmd, Event.isResp, e.symm, PerPort.get_set_ne _ _ e])
      (by simp [Event.isCmd, Event.isResp, hop, PState.outstanding])

/-- Settles O48: by the cases of a step; a response ends what was outstanding, an acceptance begins it. -/
theorem responsesCountedIsKept : Obligations.ResponsesCountedIsKept :=
  fun _ _ ⟨hc, h⟩ hst => State.ResponsesCounted.stepped (s := State.popped _) h hc.popped (step_stepped hst)

/-! ## The response channels -/

/-- What `ResponsesSent` asks of the events `es` a step appends: that the step has sent their words. -/
theorem State.ResponsesSent.of_append {s t : State} (h : s.ResponsesSent) (es : List Event) (hh : t.hist = s.hist ++ es)
    (hes : ∀ q, t.rsp.get q = s.rsp.get q ++ es.flatMap (Event.sent q)) : t.ResponsesSent := by
  intro q
  rw [hh, List.flatMap_append, hes q, h q]

/-- Words sent at port `r` are, at each port, those of the response of port `r`. -/
theorem get_send_eq_sent (rsp : PerPort (List Word)) (r q : Port) (status : Byte) (rbytes : List Byte) :
    (rsp.set r (rsp.get r ++ responseWords status rbytes)).get q =
      rsp.get q ++ Event.sent q (.resp r status rbytes) := by
  obtain rfl | e := eq_or_ne r q
  · simp [Event.sent]
  · simp [Event.sent, e, PerPort.get_set_ne _ _ e.symm]

theorem State.ResponsesSent.stepped {s t : State} {m : Option Move} (h : s.ResponsesSent) (hs : Stepped s m t) :
    t.ResponsesSent := by
  cases hs with
  | idle => exact h
  | illegal r _ words =>
    exact h.of_append [.cmd r (.illegal words), .resp r ProtocolFault.illegal.status []] (by simp) fun q => by
      simpa [Event.sent] using get_send_eq_sent ..
  | refused r i _ k =>
    exact h.of_append [.cmd r (.legal i), .resp r k.status []] (by simp) fun q => by
      simpa [Event.sent] using get_send_eq_sent ..
  | released r =>
    exact h.of_append [.cmd r (.legal .release), .resp r statusOk []] (by simp) fun q => by
      simpa [Event.sent] using get_send_eq_sent ..
  | pending r => exact h.of_append [.cmd r (.legal .acquire)] (by simp) fun q => by simp [Event.sent]
  | launched r i => exact h.of_append [.cmd r (.legal i)] (by simp) fun q => by simp [Event.sent]
  | granted r =>
    exact h.of_append [.grant r, .resp r statusOk []] (by simp) fun q => by
      simpa [Event.sent] using get_send_eq_sent ..
  | started => exact h.of_append [.call s.cur.req s.cur.op] (by simp) fun q => by simp [Event.sent]
  | answered a => exact h.of_append [.ret a] (by simp) fun q => by simp [Event.sent]
  | finished =>
    exact h.of_append [.resp s.cur.req s.ans.outcome.1 s.ans.outcome.2] (by simp) fun q => by
      simpa [Event.sent] using get_send_eq_sent ..

/-- Settles O50: by the cases of a step, each of which sends exactly the words of the response it logs. -/
theorem responseChannelIsKept : Obligations.ResponseChannelIsKept :=
  fun _ _ h hst => State.ResponsesSent.stepped (s := State.popped _) h (step_stepped hst)

/-! ## The fault bits -/

/-- The mask of a fault sets the fault's own bit and no other's (R19). -/
@[simp] theorem ProtocolFault.getLsbD_mask (k j : ProtocolFault) : k.mask.getLsbD j.bit = decide (k = j) := by
  cases k <;> cases j <;> decide

@[simp] theorem ProtocolFault.status_inj {k j : ProtocolFault} : k.status = j.status ↔ k = j := by
  cases k <;> cases j <;> decide

/-- Bit 7 of the status is 1 for every protocol fault (R116). -/
theorem ProtocolFault.getLsbD_status (k : ProtocolFault) : k.status.getLsbD 7 = true := by
  cases k <;> rfl

/-- The status of a transport error is its code, unchanged (R89, R110). -/
theorem toNat_transportStatus (e : BitVec 7) : (transportStatus e).toNat = e.toNat :=
  BitVec.toNat_setWidth_of_le (by decide)

/-- Bit 7 of the status is 0 for every transport code (R110, R116). -/
theorem getLsbD_transportStatus (e : BitVec 7) : (transportStatus e).getLsbD 7 = false := by
  simp [transportStatus]

/-- What `finish` reports is never the status of a protocol fault: bit 7 tells them apart (R89, R116). -/
theorem Answer.outcome_ne_status (a : Answer) (k : ProtocolFault) : a.outcome.1 ≠ k.status := by
  intro e
  have hk : a.outcome.1.getLsbD 7 = true := e ▸ k.getLsbD_status
  cases a with
  | ok bs => simp [Answer.outcome, statusOk] at hk
  | err c => exact Bool.false_ne_true ((getLsbD_transportStatus c).symm.trans hk)

theorem ProtocolFault.statusOk_ne_status (k : ProtocolFault) : statusOk ≠ k.status := (Answer.ok []).outcome_ne_status k

/-- What `FaultsRecorded` asks of the events `es` a step appends: that the step has set the bits of their refusals. -/
theorem State.FaultsRecorded.of_append {s t : State} (h : s.FaultsRecorded) (es : List Event) (hh : t.hist = s.hist ++ es)
    (hes : ∀ q j, (t.fault.get q).getLsbD j.bit = ((s.fault.get q).getLsbD j.bit || es.any (Event.isRefusal q j))) :
    t.FaultsRecorded := by
  intro q j
  rw [hh, List.any_append, hes q j, h q j]

/-- Raising fault `k` at port `r` sets, at each port, the bit of the refusal with fault `k` at port `r`. -/
theorem getLsbD_raise (fault : PerPort (BitVec 5)) (r q : Port) (k j : ProtocolFault) :
    ((fault.set r (fault.get r ||| k.mask)).get q).getLsbD j.bit =
      ((fault.get q).getLsbD j.bit || Event.isRefusal q j (.resp r k.status [])) := by
  obtain rfl | e := eq_or_ne r q
  · simp [Event.isRefusal, beq_eq_decide]
  · simp [Event.isRefusal, e, PerPort.get_set_ne _ _ e.symm]

theorem State.FaultsRecorded.stepped {s t : State} {m : Option Move} (h : s.FaultsRecorded) (hs : Stepped s m t) :
    t.FaultsRecorded := by
  cases hs with
  | idle => exact h
  | illegal r _ words =>
    exact h.of_append [.cmd r (.illegal words), .resp r ProtocolFault.illegal.status []] (by simp) fun q j => by
      simpa [Event.isRefusal] using getLsbD_raise s.fault r q .illegal j
  | refused r i _ k =>
    exact h.of_append [.cmd r (.legal i), .resp r k.status []] (by simp) fun q j => by
      simpa [Event.isRefusal] using getLsbD_raise s.fault r q k j
  | released r =>
    exact h.of_append [.cmd r (.legal .release), .resp r statusOk []] (by simp) fun q j => by
      simp [Event.isRefusal, j.statusOk_ne_status]
  | pending r => exact h.of_append [.cmd r (.legal .acquire)] (by simp) fun q j => by simp [Event.isRefusal]
  | launched r i => exact h.of_append [.cmd r (.legal i)] (by simp) fun q j => by simp [Event.isRefusal]
  | granted r =>
    exact h.of_append [.grant r, .resp r statusOk []] (by simp) fun q j => by
      simp [Event.isRefusal, j.statusOk_ne_status]
  | started => exact h.of_append [.call s.cur.req s.cur.op] (by simp) fun q j => by simp [Event.isRefusal]
  | answered a => exact h.of_append [.ret a] (by simp) fun q j => by simp [Event.isRefusal]
  | finished =>
    exact h.of_append [.resp s.cur.req s.ans.outcome.1 s.ans.outcome.2] (by simp) fun q j => by
      simp [Event.isRefusal, s.ans.outcome_ne_status j]

/-- Settles O51: by the cases of a step; no answer of the transport has the status of a protocol fault. -/
theorem faultRecordIsKept : Obligations.FaultRecordIsKept :=
  fun _ _ h hst => State.FaultsRecorded.stepped (s := State.popped _) h (step_stepped hst)

/-! ## The shapes of answers and responses -/

theorem State.AnswerFits.stepped {s t : State} {m : Option Move} (h : s.AnswerFits) (hs : Stepped s m t) :
    t.AnswerFits := by
  cases hs with
  | idle => exact h
  | illegal | refused | pending | released | granted => simpa [State.AnswerFits] using h
  | launched | started | finished => simp [State.AnswerFits]
  | answered a _ hf => simpa [State.AnswerFits] using hf

/-- The response of a refusal is well-shaped (R116, R120). -/
theorem ProtocolFault.wellShaped (k : ProtocolFault) (r : Port) : (Event.resp r k.status []).WellShaped :=
  .inr ⟨k.statusOk_ne_status.symm, by cases k <;> decide, rfl⟩

/-- The success of a gate command is well-shaped (R72, R73). -/
theorem wellShaped_success (r : Port) : (Event.resp r statusOk []).WellShaped := .inl ⟨rfl, by simp⟩

/-- An answer that fits the latch is reported in a well-shaped response: at most as many bytes as an `RLEN` of 8 bits can ask
for, or a code that is not 0 (R88, R89). -/
theorem Cur.wellShaped_outcome {c : Cur} {cfg : Config} {a : Answer} (h : c.fits cfg a = true) (r : Port) :
    (Event.resp r a.outcome.1 a.outcome.2).WellShaped := by
  obtain ⟨-, rfl⟩ | ⟨-, bs, rfl, hlen⟩ | ⟨e, rfl, hpos, -⟩ := (Cur.fits_iff ..).mp h
  · exact wellShaped_success r
  · have hr := c.rlen.isLt
    exact .inl ⟨rfl, show bs.length ≤ 255 by omega⟩
  · have he := e.isLt
    have hst := toNat_transportStatus e
    refine .inr ⟨fun h0 => ?_, show (transportStatus e).toNat ≤ 0x84 by omega, rfl⟩
    have h0 : (transportStatus e).toNat = 0 := congrArg BitVec.toNat h0
    omega

/-- What `ResponsesWellShaped` asks of the events `es` a step appends: that they are well-shaped. -/
theorem State.ResponsesWellShaped.of_append {s t : State} (h : s.ResponsesWellShaped) (es : List Event)
    (hh : t.hist = s.hist ++ es) (hes : ∀ e ∈ es, e.WellShaped) : t.ResponsesWellShaped := by
  intro e he
  rw [hh, List.mem_append] at he
  exact he.elim (h e) (hes e)

theorem State.ResponsesWellShaped.stepped {s t : State} {m : Option Move} (h : s.ResponsesWellShaped) (ha : s.AnswerFits)
    (hs : Stepped s m t) : t.ResponsesWellShaped := by
  cases hs with
  | idle => exact h
  | illegal r _ words =>
    exact h.of_append [.cmd r (.illegal words), .resp r ProtocolFault.illegal.status []] (by simp)
      (by simpa using ⟨trivial, ProtocolFault.illegal.wellShaped r⟩)
  | refused r i _ k =>
    exact h.of_append [.cmd r (.legal i), .resp r k.status []] (by simp) (by simpa using ⟨trivial, k.wellShaped r⟩)
  | released r =>
    exact h.of_append [.cmd r (.legal .release), .resp r statusOk []] (by simp)
      (by simpa using ⟨trivial, wellShaped_success r⟩)
  | pending r => exact h.of_append [.cmd r (.legal .acquire)] (by simp) (by simp [Event.WellShaped])
  | launched r i => exact h.of_append [.cmd r (.legal i)] (by simp) (by simp [Event.WellShaped])
  | granted r =>
    exact h.of_append [.grant r, .resp r statusOk []] (by simp) (by simpa using ⟨trivial, wellShaped_success r⟩)
  | started => exact h.of_append [.call s.cur.req s.cur.op] (by simp) (by simp [Event.WellShaped])
  | answered a => exact h.of_append [.ret a] (by simp) (by simp [Event.WellShaped])
  | finished hp =>
    exact h.of_append [.resp s.cur.req s.ans.outcome.1 s.ans.outcome.2] (by simp)
      (by simpa using Cur.wellShaped_outcome (ha hp) s.cur.req)

/-- Settles O52: by the cases of a step; the response of `finish` is well-shaped because the latched answer fits. -/
theorem responseShapeIsKept : Obligations.ResponseShapeIsKept :=
  fun _ _ ⟨ha, h⟩ hst =>
    have hs := step_stepped hst
    ⟨State.AnswerFits.stepped (s := State.popped _) ha hs, State.ResponsesWellShaped.stepped (s := State.popped _) h ha hs⟩

end Sys2Proof.Machine
end

section
/-!
PROOFS. The order of a port's events, which every step keeps, and the invariants of every run from reset.
-/

namespace Sys2Proof.Machine

/-! ## The order of a port's events -/

/-- Folding a partial step over a history is its monadic fold. -/
theorem portAfter_eq_foldlM (cfg : Config) (r : Port) (h : List Event) :
    portAfter cfg r h = h.foldlM (portStep cfg r) .ready :=
  (List.foldlM_eq_foldl ..).symm

/-- A history goes on from where it has led. -/
theorem portAfter_append {cfg : Config} {r : Port} {h : List Event} {v : PortView} (hv : portAfter cfg r h = some v)
    (es : List Event) : portAfter cfg r (h ++ es) = es.foldlM (portStep cfg r) v := by
  rw [portAfter_eq_foldlM] at hv ⊢
  rw [List.foldlM_append, hv]
  rfl

/-- The views a port's registers show, by the port's state. -/
theorem State.shows_iff {s : State} {r : Port} {v : PortView} :
    s.Shows r v ↔
      (s.pstate.get r = .idle ∧ v = .ready) ∨
      (s.pstate.get r = .acqWait ∧ v = .sent (.legal .acquire)) ∨
      (s.pstate.get r = .op ∧ ∃ i, frame s.cfg r i = some s.cur.op ∧
        ((s.phase = .frame ∧ v = .sent (.legal i)) ∨ (s.phase = .xfer ∧ v = .called i) ∨
          (s.phase = .resp ∧ v = .answered i s.ans))) := by
  cases v with
  | ready => simp [State.Shows]
  | sent c =>
    cases c with
    | illegal ws => simp [State.Shows]
    | legal i => cases i <;> simp [State.Shows, frame, and_comm]
  | granted => simp [State.Shows]
  | called i => simp [State.Shows, and_comm]
  | answered i a => simp [State.Shows, and_comm, and_assoc, and_left_comm]

theorem State.Shows.eq_ready {s : State} {r : Port} {v : PortView} (h : s.Shows r v) (hi : s.pstate.get r = .idle) :
    v = .ready := by
  rw [State.shows_iff] at h
  simpa [hi] using h

theorem State.Shows.eq_sent_acquire {s : State} {r : Port} {v : PortView} (h : s.Shows r v)
    (hw : s.pstate.get r = .acqWait) : v = .sent (.legal .acquire) := by
  rw [State.shows_iff] at h
  simpa [hw] using h

/-- The view of a port in `P_OP` is about a command that is framed as the operation in the latch. -/
theorem State.Shows.op_cases {s : State} {r : Port} {v : PortView} (h : s.Shows r v) (ho : s.pstate.get r = .op) :
    ∃ i, frame s.cfg r i = some s.cur.op ∧
      ((s.phase = .frame ∧ v = .sent (.legal i)) ∨ (s.phase = .xfer ∧ v = .called i) ∨
        (s.phase = .resp ∧ v = .answered i s.ans)) := by
  rw [State.shows_iff] at h
  simpa [ho] using h

/-- A port's registers go on showing a view when its own state stays and, while it is in `P_OP`, so does the sequencer. -/
theorem State.Shows.congr {s t : State} {r : Port} {v : PortView} (h : s.Shows r v) (hc : t.cfg = s.cfg)
    (hp : t.pstate.get r = s.pstate.get r)
    (hseq : s.pstate.get r = .op → t.phase = s.phase ∧ t.cur = s.cur ∧ t.ans = s.ans) : t.Shows r v := by
  rw [State.shows_iff] at h ⊢
  rw [hp, hc]
  obtain hi | hw | ⟨ho, h⟩ := h
  · exact .inl hi
  · exact .inr (.inl hw)
  · obtain ⟨hph, hcur, hans⟩ := hseq ho
    rw [hph, hcur, hans]
    exact .inr (.inr ⟨ho, h⟩)

/-- A transport's answer says nothing about a port that is not in `P_OP`. -/
theorem State.Shows.portStep_ret {s : State} {r : Port} {v : PortView} (h : s.Shows r v) (hn : s.pstate.get r ≠ .op)
    (a : Answer) : portStep s.cfg r v (.ret a) = some v := by
  rw [State.shows_iff] at h
  obtain ⟨-, rfl⟩ | ⟨-, rfl⟩ | ⟨ho, -⟩ := h
  · rfl
  · rfl
  · exact absurd ho hn

theorem State.FollowsProtocol.popped {s : State} (h : s.FollowsProtocol) : s.popped.FollowsProtocol := fun r =>
  have ⟨v, hv, hs⟩ := h r
  ⟨v, hv, hs.congr rfl rfl fun _ => ⟨rfl, rfl, rfl⟩⟩

/-- What the order of events asks of the events `es` a step appends about port `r`: that every other port's view and registers
stay, and that port `r` goes on to a view its registers then show. -/
theorem State.FollowsProtocol.of_append {s t : State} (h : s.FollowsProtocol) (r : Port) (es : List Event)
    (hc : t.cfg = s.cfg) (hh : t.hist = s.hist ++ es)
    (hes : ∀ q ≠ r, ∀ v, s.Shows q v → es.foldlM (portStep s.cfg q) v = some v)
    (hps : ∀ q ≠ r, t.pstate.get q = s.pstate.get q)
    (hseq : ∀ q ≠ r, s.pstate.get q = .op → t.phase = s.phase ∧ t.cur = s.cur ∧ t.ans = s.ans)
    (hr : ∀ v, s.Shows r v → ∃ v', es.foldlM (portStep s.cfg r) v = some v' ∧ t.Shows r v') : t.FollowsProtocol := by
  intro q
  obtain ⟨v, hv, hs⟩ := h q
  rw [hh, hc, portAfter_append hv]
  obtain rfl | e := eq_or_ne q r
  · exact hr v hs
  · exact ⟨v, hes q e v hs, hs.congr hc (hps q e) (hseq q e)⟩

theorem State.FollowsProtocol.stepped {s t : State} {m : Option Move} (h : s.FollowsProtocol) (hc : s.ControlInv)
    (hs : Stepped s m t) : t.FollowsProtocol := by
  cases hs with
  | idle => exact h
  | illegal r _ words _ hi =>
    refine h.of_append r [.cmd r (.illegal words), .resp r ProtocolFault.illegal.status []] (by simp) (by simp)
      (fun q e v _ => by simp [portStep, e.symm]) (by simp) (by simp) fun v hv => ?_
    obtain rfl := hv.eq_ready hi
    exact ⟨.ready, by simp [portStep, endsAtOnce], by simp [State.Shows, hi]⟩
  | refused r i _ k hi _ hk =>
    refine h.of_append r [.cmd r (.legal i), .resp r k.status []] (by simp) (by simp)
      (fun q e v _ => by simp [portStep, e.symm]) (by simp) (by simp) fun v hv => ?_
    obtain rfl := hv.eq_ready hi
    exact ⟨.ready, by simp [portStep, hk], by simp [State.Shows, hi]⟩
  | pending r _ hi =>
    refine h.of_append r [.cmd r (.legal .acquire)] (by simp) (by simp)
      (fun q e v _ => by simp [portStep, e.symm]) (fun q e => by simp [PerPort.get_set_ne _ _ e]) (by simp) fun v hv => ?_
    obtain rfl := hv.eq_ready hi
    exact ⟨.sent (.legal .acquire), by simp [portStep], by simp [State.Shows]⟩
  | released r _ hi =>
    refine h.of_append r [.cmd r (.legal .release), .resp r statusOk []] (by simp) (by simp)
      (fun q e v _ => by simp [portStep, e.symm]) (by simp) (by simp) fun v hv => ?_
    obtain rfl := hv.eq_ready hi
    exact ⟨.ready, by simp [portStep, endsAtOnce], by simp [State.Shows, hi]⟩
  | launched r i _ op hi _ ho hf =>
    have hp : s.phase = .idle := hc.phase_idle ho hi
    refine h.of_append r [.cmd r (.legal i)] (by simp) (by simp) (fun q e v _ => by simp [portStep, e.symm])
      (fun q e => by simp [PerPort.get_set_ne _ _ e]) (fun q _ hq => absurd hp (hc.inv2 q hq).1) fun v hv => ?_
    obtain rfl := hv.eq_ready hi
    exact ⟨.sent (.legal i), by simp [portStep], by simp [State.shows_iff, hf]⟩
  | granted r _ hw =>
    refine h.of_append r [.grant r, .resp r statusOk []] (by simp) (by simp)
      (fun q e v _ => by simp [portStep, e.symm]) (fun q e => by simp [PerPort.get_set_ne _ _ e]) (by simp) fun v hv => ?_
    obtain rfl := hv.eq_sent_acquire hw
    exact ⟨.ready, by simp [portStep], by simp [State.Shows]⟩
  | started hp =>
    refine h.of_append s.cur.req [.call s.cur.req s.cur.op] (by simp) (by simp) (fun q e v _ => by simp [portStep, e.symm])
      (by simp) (fun q e hq => absurd hq (hc.ne_op e)) fun v hv => ?_
    have hop := hc.req_op (by simp [hp])
    obtain ⟨i, hf, ⟨-, rfl⟩ | ⟨hp', -⟩ | ⟨hp', -⟩⟩ := hv.op_cases hop
    · exact ⟨.called i, by simp [portStep, hf], by simp [State.Shows, hop, hf]⟩
    all_goals simp [hp] at hp'
  | answered a hp =>
    refine h.of_append s.cur.req [.ret a] (by simp) (by simp) (fun q e v hv => by simp [hv.portStep_ret (hc.ne_op e)])
      (by simp) (fun q e hq => absurd hq (hc.ne_op e)) fun v hv => ?_
    have hop := hc.req_op (by simp [hp])
    obtain ⟨i, hf, ⟨hp', -⟩ | ⟨-, rfl⟩ | ⟨hp', -⟩⟩ := hv.op_cases hop
    · simp [hp] at hp'
    · exact ⟨.answered i a, by simp [portStep], by simp [State.Shows, hop, hf]⟩
    · simp [hp] at hp'
  | finished hp =>
    refine h.of_append s.cur.req [.resp s.cur.req s.ans.outcome.1 s.ans.outcome.2] (by simp) (by simp)
      (fun q e v _ => by simp [portStep, e.symm]) (fun q e => by simp [PerPort.get_set_ne _ _ e])
      (fun q e hq => absurd hq (hc.ne_op e)) fun v hv => ?_
    have hop := hc.req_op (by simp [hp])
    obtain ⟨i, hf, ⟨hp', -⟩ | ⟨hp', -⟩ | ⟨-, rfl⟩⟩ := hv.op_cases hop
    · simp [hp] at hp'
    · simp [hp] at hp'
    · exact ⟨.ready, by simp [portStep], by simp [State.Shows]⟩

/-! ## The invariants of every run -/

/-- Every invariant of the block (R23), with the order of each port's events and the records of its registers. -/
def State.Invariants (s : State) : Prop :=
  s.ControlInv ∧ s.OneTransaction ∧ s.CallsInScope ∧ s.ResponsesCounted ∧ s.FollowsProtocol ∧ s.ResponsesSent ∧
    s.FaultsRecorded ∧ s.AnswerFits ∧ s.ResponsesWellShaped

theorem State.Invariants.kept {s t : State} (h : s.Invariants) (hst : step s = .next t) : t.Invariants := by
  obtain ⟨hc, hone, hscope, hcount, hproto, hsent, hfault, hans, hshape⟩ := h
  exact ⟨controlInvariantsAreKept s t hc hst, oneTransactionIsKept s t ⟨hc, hone⟩ hst,
    callsInScopeIsKept s t ⟨hc, hscope⟩ hst, responsesCountedIsKept s t ⟨hc, hcount⟩ hst,
    hproto.popped.stepped hc.popped (step_stepped hst), responseChannelIsKept s t hsent hst,
    faultRecordIsKept s t hfault hst, responseShapeIsKept s t ⟨hans, hshape⟩ hst⟩

/-- What holds of a state and is kept by every step holds of every state a run from there reaches. -/
theorem run_keeps {P : State → Prop} (hP : ∀ {s t : State}, P s → step s = .next t → P t) {k : Nat} {s t : State}
    (hs : P s) (h : Sys2Proof.core.run k s = .next t) : P t := by
  induction k generalizing s with
  | zero => exact Host.Outcome.next.inj h ▸ hs
  | succ k ih =>
    obtain ⟨u, hu, hr⟩ := step_of_run_succ h
    exact ih (hP hs hu) hr

theorem reset_pstate (r : Port) : State.reset.pstate.get r = .idle := PerPort.get_all ..

theorem reset_fault (r : Port) : State.reset.fault.get r = 0#5 := PerPort.get_all ..

theorem reset_rsp (r : Port) : State.reset.rsp.get r = [] := PerPort.get_all ..

/-- Settles O53: at reset every port is idle, the phase is `IDLE`, the gate is free and nothing has happened. -/
theorem resetHasTheInvariants : Obligations.ResetHasTheInvariants := by
  rintro cfg cmd ms s rfl
  have hp (r : Port) : (State.reset.withInputs cfg cmd ms).pstate.get r = .idle := reset_pstate r
  refine ⟨⟨fun h => absurd rfl h, fun r h => ?_, fun r h => ?_⟩, ⟨rfl, rfl⟩, ⟨rfl, rfl⟩, fun r => ?_, fun r => ?_,
    reset_rsp, fun r k => ?_, fun h => ?_, fun e he => ?_⟩
  · simp [hp] at h
  · simp [hp] at h
  · rw [hp]
    rfl
  · exact ⟨.ready, rfl, hp r⟩
  · show ((State.reset.fault.get r).getLsbD k.bit) = false
    simp [reset_fault]
  · cases h
  · cases he

/-- Settles O54: the invariants hold at reset and every step keeps them. -/
theorem everyRunKeepsTheInvariants : Obligations.EveryRunKeepsTheInvariants := fun cfg cmd ms _ _ h =>
  run_keeps (P := State.Invariants) State.Invariants.kept (resetHasTheInvariants cfg cmd ms _ rfl) h

end Sys2Proof.Machine
end

section
/-!
PROOFS. The statements of the family 10_state about what commands and steps leave unchanged, the transitions of the phase, and the
status outputs.
-/

namespace Sys2Proof.Machine

/-! ## What the commands leave unchanged -/

theorem exec_next (i : Instr) (s : State) : ∃ t, exec i s = .next t := by
  obtain ⟨k, -, -, e⟩ | ⟨-, -, e⟩ | ⟨-, -, e⟩ | ⟨op, -, -, e⟩ := exec_cases i s <;> exact ⟨_, e⟩

/-- Settles O15: a gate command is refused, becomes pending or ends its handle. -/
theorem gateCommandFrame : Obligations.GateCommandFrame := by
  intro i s t hi ht
  obtain ⟨k, -, -, e⟩ | ⟨rfl, -, e⟩ | ⟨rfl, -, e⟩ | ⟨op, hf, -, -⟩ := exec_cases i s
  case inr.inr.inr => obtain rfl | rfl := hi <;> cases hf
  all_goals
    cases ht.symm.trans e
    simp +contextual [PerPort.get_set_ne]

/-- Settles O25: a bus-operation command is refused or launched. -/
theorem busCommandFrame : Obligations.BusCommandFrame := by
  intro i s t ha hr ht
  obtain ⟨k, -, -, e⟩ | ⟨rfl, -, -⟩ | ⟨rfl, -, -⟩ | ⟨op, -, -, e⟩ := exec_cases i s
  · cases ht.symm.trans e
    simp +contextual [PerPort.get_set_ne]
  · exact absurd rfl ha
  · exact absurd rfl hr
  · cases ht.symm.trans e
    simp +contextual [PerPort.get_set_ne]

/-! ## What a step leaves unchanged -/

theorem Stepped.cfg_eq {s t : State} {m : Option Move} (h : Stepped s m t) : t.cfg = s.cfg := by
  cases h with
  | idle => rfl
  | illegal | refused | pending | released | launched | granted | started | answered | finished => simp

/-- Settles O43: by the cases of a step, none of which writes `cfg`. -/
theorem configurationNeverChanges : Obligations.ConfigurationNeverChanges :=
  fun _ _ hst => (step_stepped hst).cfg_eq

/-- A requester's turn writes nothing of another port (R20). -/
theorem Stepped.other_port {s t : State} {r q : Port} (h : Stepped s (some (.present r)) t) (hq : q ≠ r) :
    t.pstate.get q = s.pstate.get q ∧ t.fault.get q = s.fault.get q ∧ t.rsp.get q = s.rsp.get q ∧
      t.cmd.get q = s.cmd.get q := by
  cases h with
  | idle => exact ⟨rfl, rfl, rfl, rfl⟩
  | illegal | refused | pending | released | launched => simp [PerPort.get_set_ne _ _ hq]

/-- Settles O40: the turn's port is the only one whose registers and channels the step writes. -/
theorem requesterTouchesOnlyItsOwnPort : Obligations.RequesterTouchesOnlyItsOwnPort :=
  fun _ _ _ _ hm hq hst => (hm ▸ step_stepped hst).other_port hq

/-- A step leaves the fault bits as they are or raises a fault at one port. -/
theorem Stepped.fault_cases {s t : State} {m : Option Move} (h : Stepped s m t) :
    t.fault = s.fault ∨ ∃ r k, t.fault = s.fault.set r (s.fault.get r ||| ProtocolFault.mask k) := by
  cases h with
  | idle | pending | released | launched | granted | started | answered | finished => exact .inl (by simp)
  | illegal r => exact .inr ⟨r, .illegal, by simp⟩
  | refused r _ _ k => exact .inr ⟨r, k, by simp⟩

/-- Settles O42: raising a fault sets a bit and keeps the others. -/
theorem faultBitsAreSticky : Obligations.FaultBitsAreSticky := by
  intro s t q j hst hset
  obtain e | ⟨r, k, e⟩ := (step_stepped hst).fault_cases
  · rwa [e]
  · rw [e, getLsbD_raise]
    exact Bool.or_eq_true_iff.mpr (.inl hset)

/-- Settles O36: by the cases of a step; a launch comes only in phase `IDLE` because its port is an idle owner. -/
theorem phaseAdvancesInOrder : Obligations.PhaseAdvancesInOrder := by
  intro s t hc hst hne
  generalize hm : s.moves.head? = m at *
  have hs := hm ▸ step_stepped hst
  cases hs with
  | idle | illegal | refused | pending | released | granted => simp at hne
  | launched r i rest op hi hd ho hf =>
    obtain ⟨hl, howner⟩ := (s.isOwner_iff r).mp ho
    obtain ⟨ms, hms⟩ := List.head?_eq_some_iff.mp hm
    exact .inl ⟨hc.phase_idle ho hi, by simp, r, i, rest, op, ms, hms, hd, hl, howner, hf, by simp, by simp⟩
  | started hp => exact .inr (.inl ⟨hp, by simp, rfl⟩)
  | answered a hp hf => exact .inr (.inr (.inl ⟨hp, by simp, a, rfl, hf, by simp⟩))
  | finished hp => exact .inr (.inr (.inr ⟨hp, by simp, rfl, by simp⟩))

/-! ## Every step goes on -/

theorem State.present_next (s : State) (r : Port) : ∃ t, s.present r = .next t := by
  unfold State.present
  split
  · split
    · exact exec_next ..
    · exact ⟨_, rfl⟩
    · exact ⟨_, rfl⟩
  · exact ⟨_, rfl⟩

theorem State.turn_next (s : State) (m : Move) : ∃ t, s.turn m = .next t := by
  cases m with
  | present r => exact s.present_next r
  | grant | start | answer | finish => exact ⟨_, rfl⟩

/-- Settles O35: by the agent whose turn it is; every command has a next state by `exec_next`. -/
theorem everyStepGoesOn : Obligations.EveryStepGoesOn := by
  intro s
  cases hm : s.moves with
  | nil => exact ⟨s, by simp [step, State.takeTurn, hm]⟩
  | cons m ms => exact step_of_moves hm ▸ State.turn_next ..

/-- Settles O17: an owner is the port `OWNER` names. -/
theorem atMostOneOwner : Obligations.AtMostOneOwner := fun s r q hr hq =>
  ((s.isOwner_iff r).mp hr).2.symm.trans ((s.isOwner_iff q).mp hq).2

/-! ## Codes and status outputs -/

/-- Settles O59: the codes by their values, bit 7 by `getLsbD_status` and `getLsbD_transportStatus`. -/
theorem statusCodes : Obligations.StatusCodes :=
  ⟨by decide, by decide, by decide, by decide, by decide, rfl, rfl, rfl, ProtocolFault.getLsbD_status,
    getLsbD_transportStatus⟩

/-- All port numbers fit `ceil(log2(N_REQ))` bits (R14). -/
theorem Config.nReq_le_two_pow_portWidth (c : Config) : c.nReq ≤ 2 ^ c.portWidth := by
  by_contra hlt
  exact absurd (Config.lt_portWidth (Nat.not_le.mp hlt)) (Nat.lt_irrefl _)

/-- No fewer bits than `ceil(log2(N_REQ))` fit all port numbers (R14). -/
theorem Config.portWidth_le {c : Config} {w : Nat} (h : c.nReq ≤ 2 ^ w) : c.portWidth ≤ w := by
  unfold Config.portWidth
  split
  · exact Nat.zero_le w
  · exact (Nat.log2_lt (by omega)).mpr (by omega)

/-- `PSTATE[r]` on the status outputs: a port past the end shows `P_IDLE`, as its register holds it. -/
theorem State.statusOutputs_pstate (s : State) (r : Port) : s.statusOutputs.pstate.get r = pstateBits (s.pstate.get r) :=
  PerPort.get_map (f := pstateBits) rfl s.pstate r

/-- Settles O60: by the encodings of R13 to R16, each of which is one-to-one. -/
theorem statusOutputsShowTheRegisters : Obligations.StatusOutputsShowTheRegisters := by
  intro s
  refine ⟨?_, BitVec.toNat_ofNat .., Config.nReq_le_two_pow_portWidth s.cfg, fun w => Config.portWidth_le, fun r => ?_, ?_⟩
  · show BitVec.ofBool s.locked = 1#1 ↔ _
    cases s.locked <;> decide
  · rw [s.statusOutputs_pstate]
    cases s.pstate.get r <;> decide
  · show (phaseBits s.phase = _ ↔ _) ∧ (phaseBits s.phase = _ ↔ _) ∧ (phaseBits s.phase = _ ↔ _) ∧
      (phaseBits s.phase = _ ↔ _) ∧ _
    cases s.phase <;> simp [phaseBits, State.statusOutputs]

end Sys2Proof.Machine
end

section
/-!
PROOFS. The statements of the family 20_memory: the order of each port's events is kept by every step, and a requester's turn
runs the command that stands decoded on its channel.
-/

namespace Sys2Proof.Machine

/-- Settles O49: taking the turn off the schedule leaves every port's view as it was, and each case of a step goes on from there
by `State.FollowsProtocol.stepped`. -/
theorem portHistoriesFollowTheProtocol : Obligations.PortHistoriesFollowTheProtocol :=
  fun _ _ ⟨hc, h⟩ hst => h.popped.stepped hc.popped (step_stepped hst)

/-- A requester's turn runs the whole command on its channel when the port may present (R60). -/
theorem State.present_of_instr {s : State} {r : Port} {i : Instr} {rest : List Word} (hp : s.mayPresent r = true)
    (hd : decode (s.cmd.get r) = .instr i rest) : s.present r = exec i (s.accept r (.legal i) rest) := by
  simp [State.present, hp, hd]

/-- Settles O28: the port may present, and accepting the command makes the state the statement writes out. -/
theorem stepRunsTheDecodedCommand : Obligations.StepRunsTheDecodedCommand := by
  intro s r ms i rest hm hx hi hd
  rw [step_of_moves hm]
  exact State.present_of_instr ((State.mayPresent_iff ..).mpr ⟨hx, hi⟩) hd

end Sys2Proof.Machine
end

section
/-!
PROOFS. The statements of the family 30_encoding about the words of commands and responses: the two round trips of decoder and
encoder, the decoder's table, the length of a command, bad payload words, and the fields of a response word.
-/

namespace Sys2Proof

/-! ## The rows of the decoder's table -/

theorem Opcode.matches_iff (o : Opcode) (w : Word) : o.matches w = true ↔ w &&& o.mask = o.pattern := beq_iff_eq

/-- A row is the selected one exactly when the header word meets its mask and match value (R57). -/
theorem selectRow_eq_some_iff (w : Word) (o : Opcode) : selectRow w = some o ↔ w &&& o.mask = o.pattern :=
  (Iff.intro matches_of_selectRow selectRow_of_matches).trans (o.matches_iff w)

/-- No row is selected exactly when the header word meets none of them (R57, R61). -/
theorem selectRow_eq_none_iff (w : Word) : selectRow w = none ↔ ∀ o : Opcode, w &&& o.mask ≠ o.pattern := by
  simp only [Option.eq_none_iff_forall_ne_some, ne_eq, selectRow_eq_some_iff]

/-- What holds of every row of the table holds of its eight rows. -/
theorem Opcode.forall_iff {p : Opcode → Prop} :
    (∀ o, p o) ↔ p .acquire ∧ p .release ∧ p .busWrite ∧ p .busWriteRead ∧ p .reg16Write ∧ p .reg16Read ∧
      p .ctrlWriteCmd ∧ p .ctrlWriteData := by
  refine ⟨fun h => ⟨h _, h _, h _, h _, h _, h _, h _, h _⟩, fun ⟨h1, h2, h3, h4, h5, h6, h7, h8⟩ o => ?_⟩
  cases o <;> assumption

/-! ## The three outcomes of decoding -/

/-- A header of no row is an illegal encoding of one word (R61 a). -/
theorem decode_of_no_row {h : Word} (ho : selectRow h = none) (ws : List Word) :
    decode (h :: ws) = .illegal .header [h] ws := by
  simp only [decode, ho]

/-- A header with fewer words behind it than it announces is not decoded yet (log entry 2). -/
theorem decode_of_short {o : Opcode} {h : Word} {ws : List Word} (ho : selectRow h = some o)
    (hn : ws.length < o.payloadWords h) : decode (h :: ws) = .incomplete := by
  simp [decode, ho, decodeRow, hasWords_eq, hn]

/-- A header with all its payload words behind it is the row's command when every one of them is legal, and otherwise an illegal
encoding of all these words (R58, R59, R61 b). -/
theorem decode_of_payload {o : Opcode} {h : Word} {payload : List Word} (ho : selectRow h = some o)
    (hn : o.payloadWords h = payload.length) (rest : List Word) :
    decode (h :: (payload ++ rest)) =
      if payload.all payloadLegal then .instr (o.build h (payload.map payloadByte)) rest
      else .illegal .payload (h :: payload) rest := by
  simp [decode, ho, decodeRow, hasWords_eq, hn]

/-- Settles O4: by `selectRow_eq_some_iff` at each row; a header of a row is never an illegal header. -/
theorem decoderSelectsTheMatchingRow : Obligations.DecoderSelectsTheMatchingRow := by
  intro w ws
  have hnone : decode (w :: ws) = .illegal .header [w] ws ↔ selectRow w = none := by
    refine ⟨fun h => ?_, fun h => decode_of_no_row h ws⟩
    cases ho : selectRow w with
    | none => rfl
    | some o =>
      simp only [decode, ho, decodeRow] at h
      split_ifs at h
      all_goals cases h
  have hrow := selectRow_eq_some_iff w
  exact ⟨hrow _, hrow _, hrow _, hrow _, hrow _, hrow _, hrow _, hrow _,
    hnone.trans ((selectRow_eq_none_iff w).trans Opcode.forall_iff)⟩

/-! ## Decoding gives the encoded command back -/

/-- The header of every well-formed command stands for it. -/
theorem headerRow (i : Instr) : Laws.HeaderRow.Statement i := by
  cases i with
  | acquire => exact Laws.HeaderRow.acquire
  | release => exact Laws.HeaderRow.release
  | busWrite addr bytes => exact Laws.HeaderRow.busWrite addr bytes
  | busWriteRead addr wbytes rlen => exact Laws.HeaderRow.busWriteRead addr wbytes rlen
  | reg16Write reg data => exact Laws.HeaderRow.reg16Write reg data
  | reg16Read reg => exact Laws.HeaderRow.reg16Read reg
  | ctrlWriteCmd payload => exact Laws.HeaderRow.ctrlWriteCmd payload
  | ctrlWriteData payload => exact Laws.HeaderRow.ctrlWriteData payload

/-- Settles O1: the header selects the command's row and announces its payload, and the row gives the command back. -/
theorem decodeOfEncodeIsTheCommand : Obligations.DecodeOfEncodeIsTheCommand := by
  intro i rest hw
  obtain ⟨hrow, hn, hbuild⟩ := headerRow i hw
  calc decode (i.header :: (i.payload.map payloadWord ++ rest))
    _ = decodeRow i.opcode i.header (i.payload.map payloadWord ++ rest) := by simp only [decode, hrow]
    _ = .instr (i.opcode.build i.header i.payload) rest := decodeRow_payload hn rest
    _ = .instr i rest := by rw [hbuild]

/-- Settles O5: with the lengths the fields say, the formulas are the encodings of the commands. -/
theorem headerFormulasDecode : Obligations.HeaderFormulasDecode := by
  intro a reg d n m len p q rest hp hq
  have hlen : p.length ≤ 65535 := by omega
  have hwlen : q.length ≤ 255 := by omega
  obtain rfl : len = BitVec.ofNat 16 p.length := by simp [hp]
  obtain rfl : n = BitVec.ofNat 8 q.length := by simp [hq]
  have hdec := fun i : Instr => decodeOfEncodeIsTheCommand i rest
  exact ⟨hdec (.busWrite a p) (wf_of_payload_le hlen), hdec (.busWriteRead a q m) (wf_of_payload_le hwlen),
    hdec (.reg16Write reg d) (wf_of_payload_le (Nat.le_refl 0)), hdec (.reg16Read reg) (wf_of_payload_le (Nat.le_refl 0)),
    hdec (.ctrlWriteCmd p) (wf_of_payload_le hlen), hdec (.ctrlWriteData p) (wf_of_payload_le hlen)⟩

/-! ## The encoding gives the decoded words back -/

/-- The fields of format B are the bits its mask leaves out (R53). -/
theorem fields_busWrite (w : Word) :
    (fieldAddr7 w).zeroExtend 32 <<< 20 ||| (fieldLen w).zeroExtend 32 = w &&& ~~~Opcode.busWrite.mask := by
  apply BitVec.eq_of_getLsbD_eq
  intro i hi
  interval_cases i <;> simp [fieldAddr7, fieldLen, Opcode.mask]

/-- The fields of format X are the bits its mask leaves out (R54). -/
theorem fields_busWriteRead (w : Word) :
    (fieldAddr7 w).zeroExtend 32 <<< 20 ||| (fieldWlen w).zeroExtend 32 <<< 8 ||| (fieldRlen w).zeroExtend 32 =
      w &&& ~~~Opcode.busWriteRead.mask := by
  apply BitVec.eq_of_getLsbD_eq
  intro i hi
  interval_cases i <;> simp [fieldAddr7, fieldWlen, fieldRlen, Opcode.mask]

/-- The fields of `REG16_WRITE` are the bits its mask leaves out (R55). -/
theorem fields_reg16Write (w : Word) :
    (fieldRegAddr w).zeroExtend 32 <<< 8 ||| (fieldData w).zeroExtend 32 = w &&& ~~~Opcode.reg16Write.mask := by
  apply BitVec.eq_of_getLsbD_eq
  intro i hi
  interval_cases i <;> simp [fieldRegAddr, fieldData, Opcode.mask]

/-- The field of `REG16_READ` is the bits its mask leaves out (R55). -/
theorem fields_reg16Read (w : Word) : (fieldRegAddr w).zeroExtend 32 <<< 8 = w &&& ~~~Opcode.reg16Read.mask := by
  apply BitVec.eq_of_getLsbD_eq
  intro i hi
  interval_cases i <;> simp [fieldRegAddr, Opcode.mask]

/-- The field of format C is the bits its masks leave out (R56). -/
theorem fields_ctrlWrite (w : Word) : (fieldLen w).zeroExtend 32 = w &&& ~~~0xFFFF0000#32 := by
  apply BitVec.eq_of_getLsbD_eq
  intro i hi
  interval_cases i <;> simp [fieldLen]

/-- The header of a command built of as many bytes as a word announces: the row's match value and the word's bits that the mask
leaves out (R52 to R56). -/
theorem header_build {o : Opcode} {w : Word} {bs : List Byte} (hn : o.payloadWords w = bs.length) :
    (o.build w bs).header = o.pattern ||| (w &&& ~~~o.mask) := by
  cases o with
  | acquire | release => simp [Opcode.build, Instr.header, Opcode.pattern, Opcode.mask]
  | busWrite =>
    have hlen : BitVec.ofNat 16 bs.length = fieldLen w := by simp [← hn, Opcode.payloadWords]
    rw [← fields_busWrite, ← hlen, ← BitVec.or_assoc]
    rfl
  | busWriteRead =>
    have hlen : BitVec.ofNat 8 bs.length = fieldWlen w := by simp [← hn, Opcode.payloadWords]
    rw [← fields_busWriteRead, ← hlen, ← BitVec.or_assoc, ← BitVec.or_assoc]
    rfl
  | reg16Write =>
    rw [← fields_reg16Write, ← BitVec.or_assoc]
    rfl
  | reg16Read =>
    rw [← fields_reg16Read]
    rfl
  | ctrlWriteCmd | ctrlWriteData =>
    have hlen : BitVec.ofNat 16 bs.length = fieldLen w := by simp [← hn, Opcode.payloadWords]
    simp only [Opcode.mask, ← fields_ctrlWrite, ← hlen]
    rfl

/-- A word of a row is the row's match value and the bits that the mask leaves out (R57). -/
theorem pattern_or_of_selectRow {o : Opcode} {w : Word} (ho : selectRow w = some o) : o.pattern ||| (w &&& ~~~o.mask) = w := by
  rw [← (selectRow_eq_some_iff w o).mp ho, ← BitVec.and_or_distrib_left, BitVec.or_not_self, BitVec.and_allOnes]

@[simp] theorem opcode_build (o : Opcode) (w : Word) (bs : List Byte) : (o.build w bs).opcode = o := by
  cases o <;> rfl

/-- The command built of as many bytes as a header word announces has these bytes as its payload. -/
theorem payload_build {o : Opcode} {w : Word} {bs : List Byte} (hn : o.payloadWords w = bs.length) :
    (o.build w bs).payload = bs := by
  cases o with
  | acquire | release | reg16Write | reg16Read => exact (List.eq_nil_of_length_eq_zero hn.symm).symm
  | busWrite | busWriteRead | ctrlWriteCmd | ctrlWriteData => rfl

/-- No header announces more payload words than R5 allows: the length fields have 16 and 8 bits (R53, R54, R56). -/
theorem payloadWords_le (o : Opcode) (w : Word) : o.payloadWords w ≤ Config.standard.maxPayload o := by
  cases o with
  | acquire | release | reg16Write | reg16Read => exact Nat.le_refl 0
  | busWrite | ctrlWriteCmd | ctrlWriteData => exact Nat.le_of_lt_succ (fieldLen w).isLt
  | busWriteRead => exact Nat.le_of_lt_succ (fieldWlen w).isLt

/-- Settles O2: the decoded command is built of the header word and the payload bytes, and its encoding has both again. -/
theorem decodedWordsAreTheEncoding : Obligations.DecodedWordsAreTheEncoding := by
  intro ws rest i h
  obtain ⟨w, o, bs, ho, hn, rfl, rfl⟩ := decode_eq_instr h
  have hpayload := payload_build hn
  have hheader := (header_build hn).trans (pattern_or_of_selectRow ho)
  refine ⟨wf_of_payload_le ?_, ?_⟩
  · rw [hpayload, opcode_build, ← hn]
    exact payloadWords_le o w
  · rw [encode, hheader, hpayload, List.cons_append]

/-! ## How many words a command takes -/

/-- The field `LEN` of a header is its value modulo 65536 (R53, R56). -/
theorem toNat_fieldLen (w : Word) : (fieldLen w).toNat = w.toNat % 65536 := by
  simp [fieldLen, BitVec.extractLsb'_toNat]

/-- The field `WLEN` of a header (R54). -/
theorem toNat_fieldWlen (w : Word) : (fieldWlen w).toNat = w.toNat / 256 % 256 := by
  simp [fieldWlen, BitVec.extractLsb'_toNat, Nat.shiftRight_eq_div_pow]

/-- A command takes one word more than its header announces, and how many these are the masks of formats B, C and X tell
(R59). -/
theorem one_add_announced (h : Word) :
    1 + announced h =
      if h &&& 0xF80F0000#32 = 0x30000000#32 ∨ h &&& 0xFFFF0000#32 = 0x70000000#32 ∨ h &&& 0xFFFF0000#32 = 0x71000000#32 then
        1 + h.toNat % 65536
      else if h &&& 0xF80F0000#32 = 0x40000000#32 then 1 + h.toNat / 256 % 256 else 1 := by
  have hB := selectRow_eq_some_iff h .busWrite
  have hX := selectRow_eq_some_iff h .busWriteRead
  have hC := selectRow_eq_some_iff h .ctrlWriteCmd
  have hD := selectRow_eq_some_iff h .ctrlWriteData
  simp only [Opcode.mask, Opcode.pattern] at hB hX hC hD
  simp only [← hB, ← hX, ← hC, ← hD, announced]
  cases selectRow h with
  | none => simp
  | some o => cases o <;> simp [Opcode.payloadWords, toNat_fieldLen, toNat_fieldWlen]

/-- Settles O6: by the outcomes of decoding, a channel with enough words being its payload words and the rest. -/
theorem commandLengthIsKnownFromTheHeader : Obligations.CommandLengthIsKnownFromTheHeader := by
  intro h ws n hlen
  obtain rfl := hlen.trans (one_add_announced h).symm
  cases ho : selectRow h with
  | none => simp [decode_of_no_row ho, announced, ho]
  | some o =>
    have ha : announced h = o.payloadWords h := by simp only [announced, ho]
    rw [ha]
    obtain hshort | hlong := Nat.lt_or_ge ws.length (o.payloadWords h)
    · rw [decode_of_short ho hshort]
      show ws.length + 1 < _
      omega
    · obtain ⟨payload, rest, rfl, hn⟩ : ∃ payload rest, ws = payload ++ rest ∧ o.payloadWords h = payload.length :=
        ⟨ws.take (o.payloadWords h), ws.drop (o.payloadWords h), (List.take_append_drop ..).symm, by simp [hlong]⟩
      have hb : o.payloadWords h = (payload.map payloadByte).length := by simpa using hn
      rw [decode_of_payload ho hn]
      split_ifs
      · simp [payload_build hb, hn, Nat.add_comm 1]
      · simp [hn, Nat.add_comm 1]

/-! ## Bad payload words -/

/-- A payload word is legal when it is the number of a byte (R58). -/
theorem payloadLegal_iff (w : Word) : payloadLegal w = true ↔ w.toNat < 256 := by
  have := w.isLt
  simp only [payloadLegal, beq_iff_eq, ← BitVec.toNat_inj, BitVec.extractLsb'_toNat, Nat.shiftRight_eq_div_pow,
    BitVec.toNat_ofNat]
  omega

/-- Settles O7: one payload word is not legal, so not all are. -/
theorem badPayloadWordIsIllegal : Obligations.BadPayloadWordIsIllegal := by
  intro h p o before after rest ho hn hp
  have hbad : payloadLegal p = false := Bool.eq_false_iff.mpr fun hl => by
    have := (payloadLegal_iff p).mp hl
    omega
  have hn' : o.payloadWords h = (before ++ p :: after).length := by
    rw [hn, List.length_append, List.length_cons]
    omega
  rw [decode_of_payload ho hn']
  simp [hbad]

/-! ## The test vectors -/

/-- Settles O3: the decoder is run on each vector. -/
theorem decoderReadsTheVectors : Obligations.DecoderReadsTheVectors := by
  unfold Obligations.DecoderReadsTheVectors
  decide

namespace Machine

/-! ## Response words -/

/-- A response word as a number: `STATUS` from bit 24 on, the count below bit 16 (R62). -/
theorem toNat_responseWord (status : Byte) (n : Nat) :
    (responseWord status n).toNat = status.toNat * 2 ^ 24 + n % 65536 := by
  have hs := status.isLt
  have hshift : (status.zeroExtend 32 <<< 24).toNat = status.toNat <<< 24 := by
    rw [BitVec.toNat_shiftLeft, Nat.shiftLeft_eq, BitVec.toNat_setWidth]
    omega
  have hcount : ((BitVec.ofNat 16 n).zeroExtend 32).toNat = n % 65536 := by
    rw [BitVec.toNat_setWidth, BitVec.toNat_ofNat]
    omega
  calc (status.zeroExtend 32 <<< 24 ||| (BitVec.ofNat 16 n).zeroExtend 32).toNat
    _ = status.toNat <<< 24 ||| n % 65536 := by rw [BitVec.toNat_or, hshift, hcount]
    _ = status.toNat <<< 24 + n % 65536 := (Nat.shiftLeft_add_eq_or_of_lt (by omega) _).symm
    _ = status.toNat * 2 ^ 24 + n % 65536 := by rw [Nat.shiftLeft_eq]

/-- A read-data word is its byte's number as a word (R62). -/
theorem readDataWord_eq_ofNat (b : Byte) : readDataWord b = BitVec.ofNat 32 b.toNat := (BitVec.ofNat_toNat ..).symm

/-- Settles O58: the fields are read off the response word's number. -/
theorem responseWordFields : Obligations.ResponseWordFields := by
  intro status rbytes hlen
  refine ⟨responseWord status rbytes.length, ?_, ?_⟩
  · rw [responseWords, funext readDataWord_eq_ofNat]
  · rw [toNat_responseWord]
    omega

end Machine

end Sys2Proof
end

section
/-!
PROOFS. The statements of the family 30_encoding about what becomes of a decoded command: an illegal encoding and a bus-operation
command that fails a check are refused, one that passes its checks runs to its response, and `WR16` frees the gate.
-/

namespace Sys2Proof.Machine

/-! ## The turns that take their step -/

/-- A step is a turn from the state with that turn taken off the schedule. -/
theorem step_eq_turn_popped {s : State} {m : Move} {ms : List Move} (hm : s.moves = m :: ms) : step s = s.popped.turn m := by
  rw [step_of_moves hm, State.popped, hm, List.tail_cons]

/-- The turn of a requester with a command on its channel dispatches the command (R60). -/
theorem step_of_instr {s : State} {r : Port} {i : Instr} {rest : List Word} {ms : List Move}
    (hm : s.moves = .present r :: ms) (hx : s.cfg.hasPort r = true) (hi : s.pstate.get r = .idle)
    (hd : decode (s.cmd.get r) = .instr i rest) : step s = exec i (s.popped.accept r (.legal i) rest) := by
  rw [step_eq_turn_popped hm]
  exact State.present_of_instr ((State.mayPresent_iff ..).mpr ⟨hx, hi⟩) hd

/-- The turn of a requester with an illegal encoding on its channel raises `ERR_ILLEGAL` (R60 point 1, R61). -/
theorem step_of_illegal {s : State} {r : Port} {why : Illegal} {words rest : List Word} {ms : List Move}
    (hm : s.moves = .present r :: ms) (hx : s.cfg.hasPort r = true) (hi : s.pstate.get r = .idle)
    (hd : decode (s.cmd.get r) = .illegal why words rest) :
    step s = .next ((s.popped.accept r (.illegal words) rest).raise .illegal r) := by
  have hp : s.popped.mayPresent r = true := (State.mayPresent_iff ..).mpr ⟨hx, hi⟩
  rw [step_eq_turn_popped hm, State.turn, State.present, if_pos hp, State.popped_cmd, hd]

/-- The gate's turn for a pending port of a free gate (R72). -/
theorem step_of_grant {s : State} {r : Port} {ms : List Move} (hm : s.moves = .grant r :: ms) (hl : s.locked = false)
    (hp : s.pstate.get r = .acqWait) : step s = .next (s.popped.grant r) := by
  rw [step_eq_turn_popped hm]
  exact congrArg Host.Outcome.next (if_pos ((State.grantEnabled_iff ..).mpr ⟨hl, hp⟩))

/-- The sequencer's turn `start` in phase `FRAME` (R87). -/
theorem step_of_start {s : State} {ms : List Move} (hm : s.moves = .start :: ms) (hp : s.phase = .frame) :
    step s = .next s.popped.start := by
  rw [step_eq_turn_popped hm]
  exact congrArg Host.Outcome.next (if_pos ((State.startEnabled_iff _).mpr hp))

/-- The transport's turn with an answer of the required shape in phase `XFER` (R88). -/
theorem step_of_answer {s : State} {a : Answer} {ms : List Move} (hm : s.moves = .answer a :: ms) (hp : s.phase = .xfer)
    (hf : s.cur.fits s.cfg a = true) : step s = .next (s.popped.answer a) := by
  rw [step_eq_turn_popped hm]
  exact State.turn_answer ((State.answerEnabled_iff ..).mpr ⟨hp, hf⟩)

/-- The sequencer's turn `finish` in phase `RESP` (R89). -/
theorem step_of_finish {s : State} {ms : List Move} (hm : s.moves = .finish :: ms) (hp : s.phase = .resp) :
    step s = .next s.popped.finish := by
  rw [step_eq_turn_popped hm]
  exact congrArg Host.Outcome.next (if_pos ((State.finishEnabled_iff _).mpr hp))

/-! ## Responses -/

/-- A response without read bytes is the one word that holds its status (R62). -/
theorem responseWords_nil (status : Byte) : responseWords status [] = [status.zeroExtend 32 <<< 24] := by
  simp [responseWords, responseWord]

/-- A success is answered with the count of its bytes and the bytes zero-extended (R62). -/
theorem responseWords_success (bs : List Byte) :
    responseWords 0x00#8 bs = BitVec.ofNat 32 (bs.length % 65536) :: bs.map (·.zeroExtend 32) := by
  have hcount : responseWord 0x00#8 bs.length = BitVec.ofNat 32 (bs.length % 65536) := by
    rw [← BitVec.toNat_inj, toNat_responseWord, BitVec.toNat_ofNat, BitVec.toNat_ofNat]
    omega
  rw [responseWords, hcount]
  rfl

/-- Settles O33: the step `finish` with the status and the words of the latched answer. -/
theorem finishDeliversTheAnswer : Obligations.FinishDeliversTheAnswer := by
  intro s ms hm
  refine ⟨fun bs hp ha => ?_, fun e hp ha => ?_⟩
  · rw [step_of_finish hm hp, Host.Outcome.next.injEq]
    simp [State.ext_iff, hm, ha, Answer.outcome, statusOk, responseWords_success]
  · rw [step_of_finish hm hp, Host.Outcome.next.injEq]
    simp [State.ext_iff, hm, ha, Answer.outcome, responseWords_nil, transportStatus]

/-! ## Refusals -/

/-- Settles O29: the port accepts the words and raises `ERR_ILLEGAL`. -/
theorem illegalEncodingIsRefused : Obligations.IllegalEncodingIsRefused := by
  intro s r ms why words rest hm hx hi hd
  rw [step_of_illegal hm hx hi hd, Host.Outcome.next.injEq]
  simp [State.ext_iff, hm, responseWords_nil, ProtocolFault.status, ProtocolFault.mask, ProtocolFault.bit]

/-- Check 4a of R60. -/
theorem State.busCommand_of_not_owner {s : State} {need : Option Convention} {bad : Bool} {op : BusOp}
    (ho : s.isOwner s.presenting = false) : s.busCommand need bad op = s.raise .notOwner s.presenting := by
  simp [State.busCommand, ho]

/-- Check 4b of R60. -/
theorem State.busCommand_of_wrong_convention {s : State} {need : Option Convention} {bad : Bool} {op : BusOp}
    (ho : s.isOwner s.presenting = true) (hc : s.hasConvention s.presenting need = false) :
    s.busCommand need bad op = s.raise .conv s.presenting := by
  simp [State.busCommand, ho, hc]

/-- Check 4c of R60. -/
theorem State.busCommand_of_bad_length {s : State} {need : Option Convention} {op : BusOp}
    (ho : s.isOwner s.presenting = true) (hc : s.hasConvention s.presenting need = true) :
    s.busCommand need true op = s.raise .len s.presenting := by
  simp [State.busCommand, ho, hc]

/-- Point 4d of R60. -/
theorem State.busCommand_of_checks {s : State} {need : Option Convention} {op : BusOp}
    (ho : s.isOwner s.presenting = true) (hc : s.hasConvention s.presenting need = true) :
    s.busCommand need false op = s.launch s.presenting op := by
  simp [State.busCommand, ho, hc]

theorem State.hasConvention_iff (s : State) (r : Port) (need : Option Convention) :
    s.hasConvention r need = true ↔ ∀ v, need = some v → s.cfg.conv.get r = v := by
  cases need <;> simp [State.hasConvention]

theorem State.isOwner_eq_false_iff (s : State) (r : Port) : s.isOwner r = false ↔ s.locked = false ∨ s.owner ≠ r := by
  rw [← Bool.not_eq_true, State.isOwner_iff, Classical.not_and_iff_not_or_not, Bool.not_eq_true]

theorem emptyPart_iff (wbytes : List Byte) (rlen : Byte) : emptyPart wbytes rlen = true ↔ wbytes = [] ∨ rlen = 0#8 := by
  simp [emptyPart]

/-- A command has no bad length when, as a `BUS_WRITE_READ`, it has two non-empty parts (R115). -/
theorem badLength_eq_false {i : Instr}
    (h : ∀ addr wbytes rlen, i = .busWriteRead addr wbytes rlen → wbytes ≠ [] ∧ rlen ≠ 0#8) : badLength i = false := by
  cases i with
  | busWriteRead addr wbytes rlen => simpa [badLength, emptyPart] using h addr wbytes rlen rfl
  | acquire | release | busWrite | reg16Write | reg16Read | ctrlWriteCmd | ctrlWriteData => rfl

/-- The register commands are bound to the convention `REG16` (R97, R98). -/
theorem conventionOf_reg16 {i : Instr} (h : i.opcode ∈ [.reg16Write, .reg16Read]) : conventionOf i = some .reg16 := by
  cases i with
  | reg16Write | reg16Read => rfl
  | acquire | release | busWrite | busWriteRead | ctrlWriteCmd | ctrlWriteData => simp [Instr.opcode] at h

/-- The control-byte commands are bound to the convention `CTRL8` (R100, R101). -/
theorem conventionOf_ctrl8 {i : Instr} (h : i.opcode ∈ [.ctrlWriteCmd, .ctrlWriteData]) : conventionOf i = some .ctrl8 := by
  cases i with
  | ctrlWriteCmd | ctrlWriteData => rfl
  | acquire | release | busWrite | busWriteRead | reg16Write | reg16Read => simp [Instr.opcode] at h

/-- Settles O24: a bus-operation command goes through the checks of `State.busCommand`, and each refusal is its `raise`. -/
theorem busCommandsAreCheckedInOrder : Obligations.BusCommandsAreCheckedInOrder := by
  intro i s ha hr
  obtain rfl | rfl | ⟨op, hf⟩ := frame_cases s.cfg s.presenting i
  · exact absurd rfl ha
  · exact absurd rfl hr
  rw [exec_of_frame hf]
  refine ⟨fun h => ?_, fun hl hown h => ?_, fun hl hown h => ?_⟩
  · rw [State.busCommand_of_not_owner ((s.isOwner_eq_false_iff _).mpr h)]
    rfl
  · have hc : s.hasConvention s.presenting (conventionOf i) = false := by
      obtain ⟨hi, hport⟩ | ⟨hi, hport⟩ := h
      · simp [conventionOf_reg16 hi, State.hasConvention, hport]
      · simp [conventionOf_ctrl8 hi, State.hasConvention, hport]
    rw [State.busCommand_of_wrong_convention ((s.isOwner_iff _).mpr ⟨hl, hown⟩) hc]
    rfl
  · obtain ⟨addr, wbytes, rlen, rfl, h⟩ := h
    have hb : badLength (.busWriteRead addr wbytes rlen) = true := (emptyPart_iff ..).mpr h
    rw [hb, State.busCommand_of_bad_length ((s.isOwner_iff _).mpr ⟨hl, hown⟩) rfl]
    rfl

/-! ## Whole transactions -/

/-- A run of `j` steps and then of `k`. -/
theorem run_add {j : Nat} (k : Nat) {s t : State} (h : Host.Core.run Sys2Proof.core j s = .next t) :
    Host.Core.run Sys2Proof.core (j + k) s = Host.Core.run Sys2Proof.core k t := by
  induction j generalizing s with
  | zero =>
    cases h
    rw [Nat.zero_add]
  | succ j ih =>
    obtain ⟨u, hu, h⟩ := step_of_run_succ h
    rw [Nat.add_right_comm, run_succ _ hu, ih h]

/-- The turn of a port that is not owner with an ACQUIRE makes it pending (R71). -/
theorem step_of_acquire {s : State} {r : Port} {rest : List Word} {ms : List Move} (hm : s.moves = .present r :: ms)
    (hx : s.cfg.hasPort r = true) (hi : s.pstate.get r = .idle) (ho : s.isOwner r = false)
    (hd : decode (s.cmd.get r) = .instr .acquire rest) :
    step s = .next ((s.popped.accept r (.legal .acquire) rest).setPstate r .acqWait) := by
  have ho' : (s.popped.accept r (.legal .acquire) rest).isOwner r = false := ho
  rw [step_of_instr hm hx hi hd, exec, execAcquire, State.accept_presenting, ho']
  rfl

/-- The turn of an idle owner with a bus-operation command that passes its checks launches the operation (R60, R85). -/
theorem step_of_launch {s : State} {r : Port} {i : Instr} {op : BusOp} {rest : List Word} {ms : List Move}
    (hm : s.moves = .present r :: ms) (hx : s.cfg.hasPort r = true) (hi : s.pstate.get r = .idle) (ho : s.isOwner r = true)
    (hd : decode (s.cmd.get r) = .instr i rest) (hf : frame s.cfg r i = some op)
    (hc : s.hasConvention r (conventionOf i) = true) (hb : badLength i = false) :
    step s = .next ((s.popped.accept r (.legal i) rest).launch r op) := by
  rw [step_of_instr hm hx hi hd, exec_of_frame hf, hb]
  exact congrArg _ (State.busCommand_of_checks ho hc)

/-- The state after the ACQUIRE of port `r`, with `rest` behind it on the channel, was accepted and granted (R71, R72). -/
def State.acquired (s : State) (r : Port) (rest : List Word) : State :=
  ((s.popped.accept r (.legal .acquire) rest).setPstate r .acqWait).popped.grant r

/-- The state after command `i` of port `r`, framed as `op`, was accepted, handed to the transport, answered `a` and delivered
(R85, R87 to R89). -/
def State.transacted (s : State) (r : Port) (i : Instr) (op : BusOp) (a : Answer) (rest : List Word) : State :=
  (((s.popped.accept r (.legal i) rest).launch r op).popped.start.popped.answer a).popped.finish

/-- The state after the RELEASE of owner `r` was accepted (R73). -/
def State.released (s : State) (r : Port) (rest : List Word) : State :=
  ((s.popped.accept r (.legal .release) rest).setLocked false).respond r statusOk []

/-- On a free gate the requester's and the gate's turns acquire it. -/
theorem run_acquired {s : State} {r : Port} {rest : List Word} {ms : List Move} (hm : s.moves = .present r :: .grant r :: ms)
    (hx : s.cfg.hasPort r = true) (hi : s.pstate.get r = .idle) (hl : s.locked = false)
    (hcmd : s.cmd.get r = encode .acquire ++ rest) : Host.Core.run Sys2Proof.core 2 s = .next (s.acquired r rest) := by
  have hd : decode (s.cmd.get r) = .instr .acquire rest := hcmd ▸ decodeOfEncodeIsTheCommand .acquire rest rfl
  have hpending := step_of_acquire hm hx hi (by simp [State.isOwner, hl]) hd
  have hgrant : step ((s.popped.accept r (.legal .acquire) rest).setPstate r .acqWait) = .next (s.acquired r rest) :=
    step_of_grant (ms := ms) (by simp [hm]) hl (by simp)
  exact (run_succ 1 hpending).trans (run_succ 0 hgrant)

/-- A bus-operation command of the owner that passes its checks runs to its response in four turns. -/
theorem run_transacted {s : State} {r : Port} {i : Instr} {op : BusOp} {a : Answer} {rest : List Word} {ms : List Move}
    (hm : s.moves = .present r :: .start :: .answer a :: .finish :: ms)
    (hx : s.cfg.hasPort r = true) (hi : s.pstate.get r = .idle) (ho : s.isOwner r = true)
    (hcmd : s.cmd.get r = encode i ++ rest) (hw : i.wf = true) (hf : frame s.cfg r i = some op)
    (hc : s.hasConvention r (conventionOf i) = true) (hb : badLength i = false) (hfit : (op.latch r).fits s.cfg a = true) :
    Host.Core.run Sys2Proof.core 4 s = .next (s.transacted r i op a rest) := by
  have hd : decode (s.cmd.get r) = .instr i rest := hcmd ▸ decodeOfEncodeIsTheCommand i rest hw
  have hlaunch := step_of_launch hm hx hi ho hd hf hc hb
  generalize hu : (s.popped.accept r (.legal i) rest).launch r op = u at hlaunch
  have hstart : step u = .next u.popped.start :=
    step_of_start (ms := .answer a :: .finish :: ms) (by simp [← hu, hm]) (by simp [← hu])
  have hanswer : step u.popped.start = .next (u.popped.start.popped.answer a) :=
    step_of_answer (ms := .finish :: ms) (by simp [← hu, hm]) rfl (by simpa [← hu] using hfit)
  have hfinish : step (u.popped.start.popped.answer a) = .next (s.transacted r i op a rest) := by
    rw [State.transacted, hu]
    exact step_of_finish (ms := ms) (by simp [← hu, hm]) rfl
  exact (run_succ 3 hlaunch).trans ((run_succ 2 hstart).trans ((run_succ 1 hanswer).trans (run_succ 0 hfinish)))

/-- The turn of the owner with a RELEASE frees the gate. -/
theorem run_released {s : State} {r : Port} {rest : List Word} {ms : List Move} (hm : s.moves = .present r :: ms)
    (hx : s.cfg.hasPort r = true) (hi : s.pstate.get r = .idle) (ho : s.isOwner r = true)
    (hcmd : s.cmd.get r = encode .release ++ rest) : Host.Core.run Sys2Proof.core 1 s = .next (s.released r rest) := by
  have hd : decode (s.cmd.get r) = .instr .release rest := hcmd ▸ decodeOfEncodeIsTheCommand .release rest rfl
  have ho' : (s.popped.accept r (.legal .release) rest).isOwner r = true := ho
  refine run_succ 0 ?_
  rw [step_of_instr hm hx hi hd, exec, execRelease, State.accept_presenting, ho']
  rfl

/-- Settles O55: by `run_transacted`, whose state is the one the statement writes out. -/
theorem transactionRunsToItsResponse : Obligations.TransactionRunsToItsResponse := by
  intro s r i op a rest ms hw hf hx ho hi hconv hlen hcmd hfit hm
  rw [run_transacted hm hx hi ho hcmd hw hf ((State.hasConvention_iff ..).mpr hconv) (badLength_eq_false hlen) hfit]
  refine congrArg (Host.Outcome.next (σ := State)) ?_
  simp [State.ext_iff, State.transacted, hm]

/-- The scope `SCOPE` (R64) over a bus-operation command that passes its checks, on a free gate: its three commands run one after
the other in seven turns. -/
theorem run_scope {s : State} {r : Port} {i : Instr} {op : BusOp} {a : Answer} {rest : List Word} {ms : List Move}
    (hm : s.moves = [.present r, .grant r, .present r, .start, .answer a, .finish, .present r] ++ ms)
    (hx : s.cfg.hasPort r = true) (hi : s.pstate.get r = .idle) (hl : s.locked = false)
    (hcmd : s.cmd.get r = (macroScope [i]).flatMap encode ++ rest) (hw : i.wf = true) (hf : frame s.cfg r i = some op)
    (hc : s.hasConvention r (conventionOf i) = true) (hb : badLength i = false) (hfit : (op.latch r).fits s.cfg a = true) :
    Host.Core.run Sys2Proof.core 7 s =
      .next (((s.acquired r (encode i ++ (encode .release ++ rest))).transacted r i op a (encode .release ++ rest)).released r
        rest) := by
  have hcmd' : s.cmd.get r = encode .acquire ++ (encode i ++ (encode .release ++ rest)) := by
    simpa [macroScope] using hcmd
  have hacquired := run_acquired hm hx hi hl hcmd'
  generalize hu : s.acquired r (encode i ++ (encode .release ++ rest)) = u at hacquired
  have hcfg : u.cfg = s.cfg := by simp [← hu, State.acquired]
  have howner : u.isOwner r = true := by simp [← hu, State.acquired, State.isOwner]
  have htransacted : Host.Core.run Sys2Proof.core 4 u = .next (u.transacted r i op a (encode .release ++ rest)) :=
    run_transacted (ms := .present r :: ms) (by simp [← hu, State.acquired, hm]) (hcfg ▸ hx)
      (by simp [← hu, State.acquired]) howner (by simp [← hu, State.acquired]) hw (hcfg ▸ hf)
      (by simpa [State.hasConvention_iff, hcfg] using hc) hb (hcfg ▸ hfit)
  have hreleased := run_released (s := u.transacted r i op a (encode .release ++ rest)) (r := r) (rest := rest) (ms := ms)
    (by simp [← hu, State.transacted, State.acquired, hm]) (by simpa [State.transacted, hcfg] using hx)
    (by simp [State.transacted]) (by simpa [State.transacted, State.isOwner] using howner) (by simp [State.transacted])
  exact (run_add 5 hacquired).trans ((run_add 1 htransacted).trans hreleased)

/-- The answers of a write fit its latch (R88). -/
theorem fits_latch_write {cfg : Config} {a : Answer} (ha : a = .ok [] ∨ ∃ e : BitVec 7, cfg.isError e = true ∧ a = .err e)
    (r : Port) (addr : DevAddr) (bytes : List Byte) : ((BusOp.write addr bytes).latch r).fits cfg a = true := by
  obtain rfl | ⟨e, he, rfl⟩ := ha
  · rfl
  · exact he

/-- Settles O56: `WR16` is the `SCOPE` of its `REG16_WRITE`, and the state at its end is read field by field. -/
theorem registerWriteInItsOwnScope : Obligations.RegisterWriteInItsOwnScope := by
  intro s r reg d a rest ms hx hl hidle _ hc ha hcmd hm
  have hconv : s.hasConvention r (some .reg16) = true := (State.hasConvention_iff ..).mpr fun v hv => by cases hv; exact hc
  have hrun := run_scope hm hx hidle hl hcmd rfl rfl hconv rfl (fits_latch_write ha ..)
  refine ⟨_, hrun, ?_⟩
  have hdata : a.outcome.2 = [] := by obtain rfl | ⟨e, -, rfl⟩ := ha <;> rfl
  have hpstate (q : Port) : (s.pstate.set r .idle).get q = s.pstate.get q := by
    rw [PerPort.get_set, ← hidle]
    split_ifs with hq
    · rw [hq]
    · rfl
  simp [State.released, State.transacted, State.acquired, State.wireLog, List.filter_cons, Event.onWire, memWrite,
    responseWords_nil, statusOk, hm, hdata, hpstate]

end Sys2Proof.Machine
end

section
/-!
PROOFS. The statements of the family 40_gate: what ACQUIRE, RELEASE and the step `grant` do in each of their cases, who becomes
and ceases to be owner, that a pending ACQUIRE waits while the gate is held, and that a turn that is not enabled is lost.
-/

namespace Sys2Proof.Machine

/-! ## The gate commands -/

/-- `ACQUIRE` of the owner is refused (R71, R113). -/
theorem exec_acquire_of_owner {s : State} (ho : s.isOwner s.presenting = true) :
    exec .acquire s = .next (s.raise .reentrant s.presenting) :=
  congrArg Host.Outcome.next (if_pos ho)

/-- `ACQUIRE` of any other port becomes pending (R71). -/
theorem exec_acquire_of_not_owner {s : State} (ho : s.isOwner s.presenting = false) :
    exec .acquire s = .next (s.setPstate s.presenting .acqWait) :=
  congrArg Host.Outcome.next (if_neg (ne_true_of_eq_false ho))

/-- `RELEASE` of the owner frees the gate and is answered (R73). -/
theorem exec_release_of_owner {s : State} (ho : s.isOwner s.presenting = true) :
    exec .release s = .next ((s.setLocked false).respond s.presenting statusOk []) :=
  congrArg Host.Outcome.next (if_pos ho)

/-- `RELEASE` of any other port is refused (R73, R112). -/
theorem exec_release_of_not_owner {s : State} (ho : s.isOwner s.presenting = false) :
    exec .release s = .next (s.raise .notOwner s.presenting) :=
  congrArg Host.Outcome.next (if_neg (ne_true_of_eq_false ho))

/-- Settles O11: the only write is that of `setPstate`. -/
theorem acquireByNonOwnerBecomesPending : Obligations.AcquireByNonOwnerBecomesPending :=
  fun _ ho => exec_acquire_of_not_owner ho

/-- Settles O12: the refusal raises `ERR_REENTRANT`, whose bit and response word are read off. -/
theorem acquireByOwnerIsReentrant : Obligations.AcquireByOwnerIsReentrant := by
  intro s hl hown
  rw [exec_acquire_of_owner ((s.isOwner_iff _).mpr ⟨hl, hown⟩), Host.Outcome.next.injEq]
  simp [State.ext_iff, responseWords_nil, ProtocolFault.status, ProtocolFault.mask, ProtocolFault.bit]

/-- Settles O13: the lock is written and the response sent. -/
theorem releaseByOwnerFreesTheGate : Obligations.ReleaseByOwnerFreesTheGate := by
  intro s hl hown
  rw [exec_release_of_owner ((s.isOwner_iff _).mpr ⟨hl, hown⟩), Host.Outcome.next.injEq]
  simp [State.ext_iff, responseWords_nil, statusOk]

/-- Settles O14: the refusal raises `ERR_NOT_OWNER`, whose bit and response word are read off. -/
theorem releaseByNonOwnerIsRefused : Obligations.ReleaseByNonOwnerIsRefused := by
  intro s h
  have ho : s.isOwner s.presenting = false := Bool.eq_false_iff.mpr fun ho => h ((s.isOwner_iff _).mp ho)
  rw [exec_release_of_not_owner ho, Host.Outcome.next.injEq]
  simp [State.ext_iff, responseWords_nil, ProtocolFault.status, ProtocolFault.mask, ProtocolFault.bit]

/-- Settles O16: the gate's turn takes the step `grant`. -/
theorem grantStep : Obligations.GrantStep := by
  intro s r ms hm hl hp
  rw [step_of_grant hm hl hp, Host.Outcome.next.injEq]
  simp [State.ext_iff, hm, responseWords_nil, statusOk]

/-! ## Who becomes and ceases to be owner -/

/-- Everything a step can do to the gate: leave it, free it by the owner's RELEASE, or give it to the port of the turn `grant`
when it is free (R70, R74). -/
theorem Stepped.gate_cases {s t : State} {m : Option Move} (h : Stepped s m t) :
    (t.locked = s.locked ∧ t.owner = s.owner) ∨
    (t.locked = false ∧ s.isOwner s.owner = true ∧ m = some (.present s.owner) ∧
      ∃ rest, decode (s.cmd.get s.owner) = .instr .release rest) ∨
    (s.locked = false ∧ t.locked = true ∧ m = some (.grant t.owner)) := by
  cases h with
  | idle | illegal | refused | pending | launched | started | answered | finished => exact .inl ⟨rfl, rfl⟩
  | released r rest _ hd ho =>
    obtain ⟨-, rfl⟩ := (s.isOwner_iff r).mp ho
    exact .inr (.inl ⟨rfl, ho, rfl, rest, hd⟩)
  | granted r hl => exact .inr (.inr ⟨hl, rfl, rfl⟩)

/-- Settles O38: by what a step can do to the gate. -/
theorem ownershipChangesOnlyByGrantAndRelease : Obligations.OwnershipChangesOnlyByGrantAndRelease := by
  intro s t r hst hne
  obtain ⟨hl, ho⟩ | ⟨hl, howner, hm, hd⟩ | ⟨hl, -, hm⟩ := (step_stepped hst).gate_cases
  · exact absurd (by simp [State.isOwner, hl, ho]) hne
  · have ht : t.isOwner r = false := by simp [State.isOwner, hl]
    have hs : s.isOwner r = true := by simpa [ht] using hne.symm
    obtain ⟨-, rfl⟩ := (s.isOwner_iff r).mp hs
    exact .inr ⟨hs, ht, hm, hd⟩
  · have hs : s.isOwner r = false := (s.isOwner_eq_false_iff r).mpr (.inl hl)
    have ht : t.isOwner r = true := by simpa [hs] using hne
    obtain ⟨-, rfl⟩ := (t.isOwner_iff r).mp ht
    exact .inl ⟨hs, ht, hm, hl⟩

/-! ## A pending ACQUIRE waits -/

/-- While the gate is held nothing happens to a waiting port: a requester's turn is another port's, which is idle, and the
operation delivered is another port's, which is in `P_OP` (R72, R144). -/
theorem Stepped.pending_waits {s t : State} {m : Option Move} {r : Port} (h : Stepped s m t) (hc : s.ControlInv)
    (hl : s.locked = true) (hw : s.pstate.get r = .acqWait) : t.pstate.get r = .acqWait ∧ t.rsp.get r = s.rsp.get r := by
  cases h with
  | idle | started | answered => exact ⟨hw, rfl⟩
  | illegal q _ _ _ hi | refused q _ _ _ hi | pending q _ hi | released q _ hi | launched q _ _ _ hi =>
    have hne : r ≠ q := by
      rintro rfl
      cases hw.symm.trans hi
    simp [PerPort.get_set_ne _ _ hne, hw]
  | granted _ hfree => cases hl.symm.trans hfree
  | finished hp =>
    have hne : r ≠ s.cur.req := (hc.req_ne (by simp [hw]) (by simp [hp])).symm
    simp [PerPort.get_set_ne _ _ hne, hw]

/-- Settles O39: by the cases of a step. -/
theorem pendingAcquireWaitsWhileTheGateIsHeld : Obligations.PendingAcquireWaitsWhileTheGateIsHeld :=
  fun _ _ _ hc hl hw hst => (step_stepped hst).pending_waits hc.popped hl hw

/-! ## Turns that are not enabled -/

/-- The answers R88 does not allow to the latched operation. -/
theorem Cur.not_fits {c : Cur} {cfg : Config} {a : Answer}
    (h : a = .err 0#7 ∨ (∃ e, a = .err e ∧ cfg.errLast < e.toNat) ∨ (∃ b bs, a = .ok (b :: bs) ∧ c.kind = .write) ∨
      (∃ bs, a = .ok bs ∧ c.kind = .writeRead ∧ bs.length ≠ c.rlen.toNat)) : ¬ c.fits cfg a = true := by
  obtain rfl | ⟨e, rfl, he⟩ | ⟨b, bs, rfl, hk⟩ | ⟨bs, rfl, hk, hlen⟩ := h
  · simp [Cur.fits_iff]
  · simp [Cur.fits_iff, he]
  · simp [Cur.fits_iff, hk]
  · simp [Cur.fits_iff, hk, hlen]

/-- Settles O34: outside its enabling condition each turn leaves the state with the turn taken off the schedule. -/
theorem disabledTurnsChangeNothing : Obligations.DisabledTurnsChangeNothing := by
  intro s m ms hm h
  rw [step_of_moves hm]
  obtain ⟨r, rfl, h⟩ | ⟨rfl, h⟩ | ⟨a, rfl, h⟩ | ⟨rfl, h⟩ := h <;>
    refine congrArg Host.Outcome.next (if_neg fun he => ?_)
  · obtain ⟨hl, hw⟩ := (State.grantEnabled_iff ..).mp he
    exact h.elim (fun hl' => Bool.false_ne_true (hl.symm.trans hl')) (· hw)
  · exact h ((State.startEnabled_iff _).mp he)
  · obtain ⟨hp, hf⟩ := (State.answerEnabled_iff ..).mp he
    exact h.elim (· hp) (Cur.not_fits · hf)
  · exact h ((State.finishEnabled_iff _).mp he)

end Sys2Proof.Machine
end

section
/-!
PROOFS. The statements of the family 41_bus_ops: what each bus-operation command launches when it passes its checks, that a framer
command does what the raw command with the same bytes does, the step `start`, and that only an answer leaves phase `XFER`.
-/

namespace Sys2Proof.Machine

/-! ## Launches -/

/-- A bus-operation command of the owner that passes its checks launches the operation R95 frames it as (R60 4d, R85). -/
theorem exec_of_checks {i : Instr} {s : State} {op : BusOp} (hf : frame s.cfg s.presenting i = some op) (hl : s.locked = true)
    (hown : s.owner = s.presenting) (hc : s.hasConvention s.presenting (conventionOf i) = true) (hb : badLength i = false) :
    exec i s = .next (s.launch s.presenting op) := by
  rw [exec_of_frame hf, hb, State.busCommand_of_checks ((s.isOwner_iff _).mpr ⟨hl, hown⟩) hc]

/-- A port passes check 4b of a command bound to the convention the port is configured with (R12, R60). -/
theorem State.hasConvention_of_eq {s : State} {r : Port} {v : Convention} (h : s.cfg.conv.get r = v) :
    s.hasConvention r (some v) = true :=
  beq_iff_eq.mpr h

/-- `hi` is the quotient by 256 (R96). -/
theorem hi_eq_ofNat (a : RegAddr) : hi a = BitVec.ofNat 8 (a.toNat / 256) := by
  rw [hi, BitVec.extractLsb', Nat.shiftRight_eq_div_pow]

/-- `lo` is the remainder by 256 (R96). -/
theorem lo_eq_ofNat (a : RegAddr) : lo a = BitVec.ofNat 8 (a.toNat % 256) := by
  apply BitVec.eq_of_toNat_eq
  simp [lo]

/-- Settles O18: a `BUS_WRITE` is bound to no convention, and every length is legal. -/
theorem busWriteLaunches : Obligations.BusWriteLaunches :=
  fun _ addr bytes hl hown => exec_of_checks (op := .write addr bytes) rfl hl hown rfl rfl

/-- Settles O19: neither part is empty, so check 4c passes. -/
theorem busWriteReadLaunches : Obligations.BusWriteReadLaunches := by
  intro s addr wbytes rlen hl hown hw hr
  have hb : badLength (.busWriteRead addr wbytes rlen) = false :=
    badLength_eq_false fun _ _ _ h => by cases h; exact ⟨hw, hr⟩
  exact exec_of_checks (op := .writeRead addr wbytes rlen) rfl hl hown rfl hb

/-- Settles O20: the frame is `memWrite`, whose address bytes are the quotient and the remainder by 256. -/
theorem reg16WriteLaunches : Obligations.Reg16WriteLaunches := by
  intro s reg d hl hown hc
  rw [← hi_eq_ofNat, ← lo_eq_ofNat]
  exact exec_of_checks (op := memWrite s.cfg s.presenting reg d) rfl hl hown (State.hasConvention_of_eq hc) rfl

/-- Settles O21: the frame is `memRead`, one combined operation of the two address bytes and one byte to read. -/
theorem reg16ReadLaunches : Obligations.Reg16ReadLaunches := by
  intro s reg hl hown hc
  rw [← hi_eq_ofNat, ← lo_eq_ofNat]
  exact exec_of_checks (op := memRead s.cfg s.presenting reg) rfl hl hown (State.hasConvention_of_eq hc) rfl

/-- Settles O22: the frame is `ctrlWrite` with `CTRL_COMMAND`. -/
theorem ctrlWriteCmdLaunches : Obligations.CtrlWriteCmdLaunches := fun s p hl hown hc =>
  exec_of_checks (op := ctrlWrite s.cfg s.presenting s.cfg.ctrlCommand p) rfl hl hown (State.hasConvention_of_eq hc) rfl

/-- Settles O23: the frame is `ctrlWrite` with `CTRL_DATA`. -/
theorem ctrlWriteDataLaunches : Obligations.CtrlWriteDataLaunches := fun s p hl hown hc =>
  exec_of_checks (op := ctrlWrite s.cfg s.presenting s.cfg.ctrlData p) rfl hl hown (State.hasConvention_of_eq hc) rfl

/-! ## Framer and raw commands -/

/-- At a port of the convention a command needs, check 4b makes no difference. -/
theorem State.busCommand_of_convention {s : State} {need : Option Convention} {bad : Bool} {op : BusOp}
    (hc : s.hasConvention s.presenting need = true) : s.busCommand need bad op = s.busCommand none bad op := by
  have hnone : s.hasConvention s.presenting none = true := rfl
  simp only [State.busCommand, hc, hnone]

/-- Two commands with one frame, whose conventions the port has and whose lengths are judged alike, do the same, be the port owner
or not (R95, R103). -/
theorem exec_eq_of_frame {i j : Instr} {s : State} {op : BusOp} (hi : frame s.cfg s.presenting i = some op)
    (hj : frame s.cfg s.presenting j = some op) (hci : s.hasConvention s.presenting (conventionOf i) = true)
    (hcj : s.hasConvention s.presenting (conventionOf j) = true) (hb : badLength i = badLength j) : exec i s = exec j s := by
  rw [exec_of_frame hi, exec_of_frame hj, State.busCommand_of_convention hci, State.busCommand_of_convention hcj, hb]

/-- Settles O27: each framer command has the frame of its raw command. -/
theorem framerAndRawCommandsAgree : Obligations.FramerAndRawCommandsAgree := by
  intro s reg d p
  refine ⟨fun h => ⟨?_, ?_⟩, fun h => ⟨?_, ?_⟩⟩
  all_goals exact exec_eq_of_frame rfl rfl (State.hasConvention_of_eq h) rfl rfl

/-! ## The sequencer -/

/-- Settles O31: the step is `State.start`; the operation the latch holds is read off for each kind. -/
theorem startHandsTheOperationOver : Obligations.StartHandsTheOperationOver := by
  intro s ms hm hp
  rw [step_of_start hm hp, Host.Outcome.next.injEq]
  cases hk : s.cur.kind <;> simp [State.ext_iff, hm, hk, Cur.op]

/-- In phase `XFER` any turn but the transport's leaves the transaction in flight and answers its port nothing: the sequencer's
turns are not enabled, the gate is held, and a requester's turn is that of an idle port, which is not the owner (R90). -/
theorem Stepped.xfer_waits {s t : State} {m : Option Move} (h : Stepped s m t) (hc : s.ControlInv) (hp : s.phase = .xfer)
    (hm : ∀ a, m ≠ some (.answer a)) :
    t.phase = .xfer ∧ t.cur = s.cur ∧ t.locked = true ∧ t.owner = s.owner ∧ t.pstate.get s.cur.req = .op ∧
      t.rsp.get s.cur.req = s.rsp.get s.cur.req := by
  have hflight : s.phase ≠ .idle := by simp [hp]
  obtain ⟨hl, -, hop⟩ := hc.inv1 hflight
  cases h with
  | idle => exact ⟨hp, rfl, hl, rfl, hop, rfl⟩
  | illegal r _ _ _ hi | refused r _ _ _ hi | pending r _ hi =>
    have hne : s.cur.req ≠ r := hc.req_ne (by simp [hi]) hflight
    simp [PerPort.get_set_ne _ _ hne, hp, hl, hop]
  | released r _ hi _ ho | launched r _ _ _ hi _ ho => exact absurd (hc.phase_idle ho hi) hflight
  | granted _ hfree => cases hl.symm.trans hfree
  | started h | finished h => cases hp.symm.trans h
  | answered a => exact absurd rfl (hm a)

/-- Settles O37: by the cases of a step. -/
theorem onlyAnAnswerLeavesXfer : Obligations.OnlyAnAnswerLeavesXfer :=
  fun _ _ hc hp hm hst => (step_stepped hst).xfer_waits hc.popped hp hm

end Sys2Proof.Machine
end

section
/-!
PROOFS. The statement of the family 42_framer: the two bytes of a register address, and how many bytes a command is framed as.
-/

namespace Sys2Proof.Machine

/-! ## The bytes of a register address -/

/-- `hi` as a number; the quotient of a 16-bit address by 256 is a byte (R7, R96). -/
theorem toNat_hi (reg : RegAddr) : (hi reg).toNat = reg.toNat / 256 := by
  have hlt : reg.toNat / 256 < 256 := Nat.div_lt_of_lt_mul reg.isLt
  rw [hi_eq_ofNat, BitVec.toNat_ofNat, Nat.mod_eq_of_lt hlt]

/-- `lo` as a number (R7, R96). -/
theorem toNat_lo (reg : RegAddr) : (lo reg).toNat = reg.toNat % 256 := by
  rw [lo_eq_ofNat, BitVec.toNat_ofNat, Nat.mod_mod]

/-- A register address is put together again from its two bytes, the high byte first (R96). -/
theorem toNat_eq_hi_lo (reg : RegAddr) : reg.toNat = 256 * (hi reg).toNat + (lo reg).toNat := by
  rw [toNat_hi, toNat_lo, Nat.div_add_mod]

/-! ## The number of framed bytes -/

/-- A control-byte write puts one byte in front of its payload (R95). -/
theorem ctrlWrite_wbytes_length (cfg : Config) (r : Port) (control : Byte) (p : List Byte) :
    (ctrlWrite cfg r control p).wbytes.length = 1 + p.length :=
  Nat.add_comm p.length 1

/-- A command is framed as at most three bytes, those of `REG16_WRITE`, or as at most one more than its payload (R95). -/
theorem wbytes_length_le_of_frame {cfg : Config} {r : Port} {i : Instr} {op : BusOp} (h : frame cfg r i = some op) :
    op.wbytes.length ≤ max 3 (1 + i.payload.length) := by
  cases i with
  | acquire | release => cases h
  | reg16Write | reg16Read =>
    cases h
    exact le_max_of_le_left (by simp [memWrite, memRead, BusOp.wbytes])
  | busWrite | busWriteRead =>
    cases h
    exact le_max_of_le_right (Nat.le_add_left ..)
  | ctrlWriteCmd | ctrlWriteData =>
    cases h
    exact le_max_of_le_right (ctrlWrite_wbytes_length ..).le

/-- No row of the table admits a payload of more than 65535 bytes (R5). -/
theorem standard_maxPayload_le (o : Opcode) : Config.standard.maxPayload o ≤ 65535 := by
  cases o <;> decide

/-- The payload of a well-formed command has at most 65535 bytes, so with the control byte there are at most 65536 (R5, R95). -/
theorem wbytes_length_le_of_wf {cfg : Config} {r : Port} {i : Instr} {op : BusOp} (hw : i.wf = true)
    (hf : frame cfg r i = some op) : op.wbytes.length ≤ 65536 := by
  have hframe := wbytes_length_le_of_frame hf
  have hpayload := (payload_le_of_wf hw).trans (standard_maxPayload_le i.opcode)
  omega

/-- Settles O26: the bytes of an address, the framed bytes of each framer command, and the bound on them. -/
theorem framerArithmetic : Obligations.FramerArithmetic := by
  refine ⟨fun reg => ⟨toNat_hi reg, toNat_lo reg, toNat_eq_hi_lo reg⟩, fun cfg r reg d p => ⟨rfl, rfl, ?_, ?_⟩,
    fun _ _ _ _ => wbytes_length_le_of_wf⟩
  · exact congrArg some (ctrlWrite_wbytes_length cfg r cfg.ctrlCommand p)
  · exact congrArg some (ctrlWrite_wbytes_length cfg r cfg.ctrlData p)

end Sys2Proof.Machine
end

section
/-!
PROOFS. The statement of the family 60_exceptions: a turn of a port that is not owner reaches neither the gate nor the sequencer
nor the bus.
-/

namespace Sys2Proof.Machine

/-! ## What is off the wire log (R8) -/

@[simp] theorem State.accept_wireLog (s : State) (r : Port) (c : Command) (rest : List Word) :
    (s.accept r c rest).wireLog = s.wireLog := by
  simp [State.wireLog, Event.onWire]

@[simp] theorem State.raise_wireLog (s : State) (k : ProtocolFault) (r : Port) : (s.raise k r).wireLog = s.wireLog := by
  simp [State.wireLog, Event.onWire]

@[simp] theorem State.setPstate_wireLog (s : State) (r : Port) (p : PState) : (s.setPstate r p).wireLog = s.wireLog := rfl

/-! ## The turn of a port that is not owner -/

/-- The turn of a port that is not owner is lost, refused or makes its ACQUIRE pending: RELEASE and a launch are the owner's
(R60, R73, R112, R119). -/
theorem Stepped.not_owner_frame {s t : State} {r : Port} (h : Stepped s (some (.present r)) t) (ho : s.isOwner r = false) :
    t.locked = s.locked ∧ t.owner = s.owner ∧ t.phase = s.phase ∧ t.cur = s.cur ∧ t.ans = s.ans ∧
      t.wireLog = s.wireLog := by
  cases h with
  | idle => exact ⟨rfl, rfl, rfl, rfl, rfl, rfl⟩
  | illegal | refused | pending => simp
  | released _ _ _ _ howner | launched _ _ _ _ _ _ howner => cases ho.symm.trans howner

/-- Settles O41: by the cases of a requester's turn, of which those that write the gate or the sequencer are the owner's. -/
theorem nonOwnerReachesNoBus : Obligations.NonOwnerReachesNoBus :=
  fun _ _ _ hm ho hst => (hm ▸ step_stepped hst).not_owner_frame ho

end Sys2Proof.Machine
end

section
/-!
PROOFS. The statements of the family 70_reset_and_hazards about reset: the state it leaves, and the first command after it.
-/

namespace Sys2Proof.Machine

/-! ## Reset -/

/-- Settles O8: every per-port register holds its default at reset. -/
theorem resetIsQuiescentAndFree : Obligations.ResetIsQuiescentAndFree :=
  ⟨rfl, rfl, reset_pstate, rfl, reset_fault, rfl, ⟨reset_pstate, rfl⟩, rfl⟩

/-- Every command but ACQUIRE is refused with `ERR_NOT_OWNER` at a port that is not owner (R112). -/
theorem exec_of_not_owner {i : Instr} {s : State} (hi : i ≠ .acquire) (ho : s.isOwner s.presenting = false) :
    exec i s = .next (s.raise .notOwner s.presenting) := by
  obtain rfl | rfl | ⟨op, hf⟩ := frame_cases s.cfg s.presenting i
  · exact absurd rfl hi
  · exact exec_release_of_not_owner ho
  · rw [exec_of_frame hf, State.busCommand_of_not_owner ho]

/-- Settles O10: at reset no port is owner, so an ACQUIRE becomes pending and any other command is refused. -/
theorem fromResetOnlyAcquireDoesNotFault : Obligations.FromResetOnlyAcquireDoesNotFault := by
  intro cfg cmd ms r i rest hx hw hcmd
  generalize hs : State.reset.withInputs cfg cmd (.present r :: ms) = s
  have hm : s.moves = .present r :: ms := hs ▸ rfl
  have hcfg : s.cfg.hasPort r = true := hs ▸ hx
  have hidle : s.pstate.get r = .idle := hs ▸ reset_pstate r
  have howner : s.isOwner r = false := hs ▸ rfl
  have hfault (q : Port) : s.fault.get q = 0#5 := hs ▸ reset_fault q
  have hrsp : s.rsp.get r = [] := hs ▸ reset_rsp r
  have hchannel : s.cmd.get r = encode i ++ rest := hs ▸ hcmd
  have hd : decode (s.cmd.get r) = .instr i rest := hchannel ▸ decodeOfEncodeIsTheCommand i rest hw
  by_cases hi : i = .acquire
  · subst hi
    refine ⟨_, step_of_acquire hm hcfg hidle howner hd, fun _ => ⟨?_, fun q => ?_⟩, fun hne => absurd rfl hne⟩
    · simp
    · simpa using hfault q
  · refine ⟨_, (step_of_instr hm hcfg hidle hd).trans (exec_of_not_owner hi howner), fun h => absurd h hi, fun _ => ?_⟩
    simp [hidle, hfault, hrsp, responseWords_nil, ProtocolFault.status, ProtocolFault.mask, ProtocolFault.bit]

end Sys2Proof.Machine
end

section
/-!
PROOFS. The statement of the family 70_reset_and_hazards about progress. Each of its three parts is one use of the rule of
weak fairness, `exists_of_fair`: something stays as it is until what is waited for happens, and a premise of R154 says that it
does not stay for ever.
-/

namespace Sys2Proof.Machine

/-- The rule of weak fairness: `P` holds until `Q` does, and `P` does not hold for ever without `Q`. -/
theorem exists_of_fair {P Q : Nat → Prop} {n : Nat} (hn : P n) (hstep : ∀ m ≥ n, P m → P (m + 1) ∨ Q m)
    (hfair : (∀ m ≥ n, P m) → ∃ m ≥ n, Q m) : ∃ m ≥ n, Q m := by
  by_contra hnot
  have hP : ∀ m ≥ n, P m := fun m hm => by
    induction m, hm using Nat.le_induction with
    | base => exact hn
    | succ m hm ih => exact (hstep m hm ih).resolve_right fun hq => hnot ⟨m, hm, hq⟩
  exact hnot (hfair hP)

/-! ## The steps of an execution -/

/-- The state in which the turn at position `n` is taken: the further words are on the channel, the turn is off the schedule. -/
def Execution.before (x : Execution) (n : Nat) : State :=
  ((x.state n).prepared (x.supplier n) (x.words n) (x.move n)).popped

theorem State.ControlInv.before {x : Execution} {n : Nat} (h : (x.state n).ControlInv) : (x.before n).ControlInv :=
  h.congr (by simp [Execution.before])

/-- INV1 to INV3 hold at every position of an execution that begins with them (R23). -/
theorem Execution.controlInv {x : Execution} (h : (x.state 0).ControlInv) : ∀ n, (x.state n).ControlInv
  | 0 => h
  | n + 1 => (x.controlInv h n).before.stepped (x.stepped n)

/-- The next state of an execution is what its turn is known to give. -/
theorem Execution.state_succ {x : Execution} {n : Nat} {t : State}
    (h : step ((x.state n).prepared (x.supplier n) (x.words n) (x.move n)) = .next t) : x.state (n + 1) = t :=
  Host.Outcome.next.inj ((x.next n).symm.trans h)

/-- The state after a grant in an execution (R72). -/
theorem Execution.Grants.next {x : Execution} {n : Nat} {r : Port} (h : x.Grants n r) :
    x.state (n + 1) = (x.before n).grant r := by
  obtain ⟨hm, he⟩ := h
  obtain ⟨hl, hw⟩ := (State.grantEnabled_iff ..).mp he
  exact x.state_succ (step_of_grant (ms := []) (by simp [hm]) hl hw)

/-- The port a grant goes to is then owner, and idle (R72). -/
theorem Execution.Grants.owner {x : Execution} {n : Nat} {r : Port} (h : x.Grants n r) :
    (x.state (n + 1)).isOwner r = true ∧ (x.state (n + 1)).pstate.get r = .idle := by
  simp [h.next, State.isOwner]

/-! ## The gate -/

/-- A pending port stays pending but for its own grant (R72, R144). -/
theorem Stepped.pending_until_granted {s t : State} {m : Option Move} {r : Port} (h : Stepped s m t) (hc : s.ControlInv)
    (hw : s.pstate.get r = .acqWait) :
    t.pstate.get r = .acqWait ∨ (m = some (.grant r) ∧ s.grantEnabled r = true) := by
  cases h with
  | granted q hl hq =>
    obtain rfl | hne := eq_or_ne r q
    · exact .inr ⟨rfl, (s.grantEnabled_iff r).mpr ⟨hl, hw⟩⟩
    · exact .inl (by simp [PerPort.get_set_ne _ _ hne, hw])
  | idle | started | answered => exact .inl hw
  | illegal q _ _ _ hi | refused q _ _ _ hi | pending q _ hi | released q _ hi | launched q _ _ _ hi =>
    have hne : r ≠ q := by
      rintro rfl
      cases hw.symm.trans hi
    exact .inl (by simp [PerPort.get_set_ne _ _ hne, hw])
  | finished hp =>
    have hne : r ≠ s.cur.req := (hc.req_ne (by simp [hw]) (by simp [hp])).symm
    exact .inl (by simp [PerPort.get_set_ne _ _ hne, hw])

/-- A free gate stays free but for a grant (R70). -/
theorem Stepped.free_until_granted {s t : State} {m : Option Move} (h : Stepped s m t) (hl : s.locked = false) :
    t.locked = false ∨ ∃ q, m = some (.grant q) ∧ s.grantEnabled q = true := by
  cases h with
  | granted q _ hw => exact .inr ⟨q, rfl, (s.grantEnabled_iff q).mpr ⟨hl, hw⟩⟩
  | idle | illegal | refused | pending | launched | started | answered | finished => exact .inl hl
  | released => exact .inl rfl

section
variable {x : Execution} (h0 : (x.state 0).ControlInv)
include h0

theorem Execution.pending_until_granted {n : Nat} {r : Port} (hw : (x.state n).pstate.get r = .acqWait) :
    (x.state (n + 1)).pstate.get r = .acqWait ∨ x.Grants n r :=
  ((x.stepped n).pending_until_granted (x.controlInv h0 n).before hw).imp_right fun ⟨hm, he⟩ => ⟨Option.some.inj hm, he⟩

/-- With a fair gate a free gate with a pending port is granted to some port (R72, R154 a). -/
theorem Execution.exists_grant (hfair : x.FairGate) {n : Nat} {r : Port} (hl : (x.state n).locked = false)
    (hw : (x.state n).pstate.get r = .acqWait) : ∃ m ≥ n, ∃ q, x.Grants m q := by
  refine exists_of_fair (P := fun m => (x.state m).locked = false ∧ (x.state m).pstate.get r = .acqWait) ⟨hl, hw⟩
    (fun m _ ⟨hl, hw⟩ => ?_) fun hall => ?_
  · obtain hfree | ⟨q, hm, he⟩ := (x.stepped m).free_until_granted hl
    · exact (Execution.pending_until_granted h0 hw).imp (⟨hfree, ·⟩) (⟨r, ·⟩)
    · exact .inr ⟨q, Option.some.inj hm, he⟩
  · exact hfair n fun m hm => ⟨r, (State.grantEnabled_iff ..).mpr (hall m hm)⟩

/-- With a fair gate, owners that release and a policy that serves the port, a pending port is granted (R154 a, d). -/
theorem Execution.exists_grant_of_served (hfair : x.FairGate) (hrelease : x.OwnersRelease) {r : Port}
    (hserves : x.ServesPort r) {n : Nat} (hw : (x.state n).pstate.get r = .acqWait) : ∃ m ≥ n, x.Grants m r := by
  refine exists_of_fair (P := fun m => (x.state m).pstate.get r = .acqWait) hw
    (fun m _ hw => Execution.pending_until_granted h0 hw) fun hall => hserves n hall fun k => ?_
  obtain ⟨j, hj, hl⟩ : ∃ j ≥ max n k, (x.state j).locked = false := by
    cases hl : (x.state (max n k)).locked with
    | false => exact ⟨max n k, Nat.le_refl _, hl⟩
    | true => exact hrelease _ hl
  obtain ⟨m, hm, hgrant⟩ := Execution.exists_grant h0 hfair hl (hall j (by omega))
  exact ⟨m, by omega, hgrant⟩

end

/-! ## The sequencer -/

/-- The phase that follows `p` in a transaction (R84). -/
def Phase.following : Phase → Phase
  | .idle => .frame
  | .frame => .xfer
  | .xfer => .resp
  | .resp => .idle

/-- How many phases a transaction in phase `p` still has before it (R84). -/
def Phase.remaining : Phase → Nat
  | .idle => 0
  | .frame => 3
  | .xfer => 2
  | .resp => 1

theorem Phase.remaining_following_lt {p : Phase} (hp : p ≠ .idle) : p.following.remaining < p.remaining := by
  cases p with
  | idle => exact absurd rfl hp
  | frame | xfer | resp => decide

/-- The transaction of port `r`, which had `c` responses when it was launched, has come to phase `p`: at its end, phase `IDLE`,
the port is idle and has one response more. -/
structure State.Transacts (s : State) (r : Port) (c : Nat) (p : Phase) : Prop where
  phase : s.phase = p
  req : s.cur.req = r
  responses : s.hist.countP (Event.isResp r) = c + if p = .idle then 1 else 0
  portIdle : p = .idle → s.pstate.get r = .idle

theorem State.Transacts.before {x : Execution} {n : Nat} {r : Port} {c : Nat} {p : Phase}
    (h : (x.state n).Transacts r c p) : (x.before n).Transacts r c p :=
  ⟨h.phase, h.req, h.responses, h.portIdle⟩

/-- A step leaves a transaction in its phase or takes it to the following one (R84, R90). -/
theorem Stepped.transacts {s t : State} {m : Option Move} {r : Port} {c : Nat} {p : Phase} (h : Stepped s m t)
    (hc : s.ControlInv) (hs : s.Transacts r c p) (hp : p ≠ .idle) : t.Transacts r c p ∨ t.Transacts r c p.following := by
  obtain ⟨rfl, rfl, hcount, -⟩ := hs
  rw [if_neg hp, Nat.add_zero] at hcount
  obtain ⟨hl, -, -⟩ := hc.inv1 hp
  cases h with
  | idle => exact .inl ⟨rfl, rfl, by simp [hcount, hp], fun e => absurd e hp⟩
  | illegal q _ _ _ hi | refused q _ _ _ hi | pending q _ hi =>
    have hne : q ≠ s.cur.req := (hc.req_ne (by simp [hi]) hp).symm
    exact .inl ⟨rfl, rfl, by simp [Event.isResp, hcount, hp, hne], fun e => absurd e hp⟩
  | released _ _ hi _ ho | launched _ _ _ _ hi _ ho => exact absurd (hc.phase_idle ho hi) hp
  | granted _ hfree => cases hl.symm.trans hfree
  | started he | answered _ he | finished he =>
    rw [he]
    exact .inr ⟨rfl, rfl, by simp [Event.isResp, hcount, Phase.following], by simp [Phase.following]⟩

section
variable {x : Execution} (hfair : x.FairSequencer) (hanswers : x.TransportAnswers)
include hfair hanswers

/-- With a fair sequencer and a transport that answers no phase but `IDLE` lasts for ever (R154 b, c). -/
theorem Execution.phase_ends {p : Phase} (hp : p ≠ .idle) (n : Nat) : ¬ ∀ m ≥ n, (x.state m).phase = p := by
  intro hall
  have hstep {m : Nat} {t : State} (hm : m ≥ n)
      (h : step ((x.state m).prepared (x.supplier m) (x.words m) (x.move m)) = .next t) : t.phase = p :=
    x.state_succ h ▸ hall (m + 1) (by omega)
  cases p with
  | idle => exact hp rfl
  | frame =>
    obtain ⟨m, hm, hmove⟩ := (hfair n).1 fun m hm => (State.startEnabled_iff _).mpr (hall m hm)
    cases hstep hm (step_of_start (ms := []) (by simp [hmove]) (hall m hm))
  | xfer =>
    obtain ⟨m, hm, a, hmove, he⟩ := hanswers n (hall n (Nat.le_refl n))
    obtain ⟨-, hfits⟩ := (State.answerEnabled_iff ..).mp he
    cases hstep hm (step_of_answer (ms := []) (by simp [hmove]) (hall m hm) hfits)
  | resp =>
    obtain ⟨m, hm, hmove⟩ := (hfair n).2 fun m hm => (State.finishEnabled_iff _).mpr (hall m hm)
    cases hstep hm (step_of_finish (ms := []) (by simp [hmove]) (hall m hm))

variable (h0 : (x.state 0).ControlInv)
include h0

/-- A transaction comes to the phase that follows (R84, R154). -/
theorem Execution.transaction_goes_on {n : Nat} {r : Port} {c : Nat} {p : Phase} (hp : p ≠ .idle)
    (h : (x.state n).Transacts r c p) : ∃ m ≥ n, (x.state (m + 1)).Transacts r c p.following :=
  exists_of_fair (P := fun m => (x.state m).Transacts r c p) h
    (fun m _ hm => (x.stepped m).transacts (x.controlInv h0 m).before hm.before hp)
    fun hall => absurd (fun m hm => (hall m hm).phase) (Execution.phase_ends hfair hanswers hp n)

/-- A transaction ends (R84, R154). -/
theorem Execution.transaction_ends {n : Nat} {r : Port} {c : Nat} {p : Phase} (h : (x.state n).Transacts r c p) :
    ∃ m ≥ n, (x.state m).Transacts r c .idle := by
  by_cases hp : p = .idle
  · exact ⟨n, Nat.le_refl n, hp ▸ h⟩
  · obtain ⟨m, hm, hnext⟩ := Execution.transaction_goes_on hfair hanswers h0 hp h
    obtain ⟨k, hk, hend⟩ := Execution.transaction_ends hnext
    exact ⟨k, by omega, hend⟩
termination_by p.remaining
decreasing_by exact Phase.remaining_following_lt hp

end

/-- Settles O57: the grants by `Execution.exists_grant` and `Execution.exists_grant_of_served`, the response by
`Execution.transaction_ends`. -/
theorem fairExecutionsMakeProgress : Obligations.FairExecutionsMakeProgress := by
  intro x h0
  refine ⟨fun hgate n hl ⟨r, hw⟩ => ?_, fun hseq hanswers n hp r hr => ?_, fun hgate hrelease r hserves n hw => ?_⟩
  · obtain ⟨m, hm, q, hgrant⟩ := Execution.exists_grant h0 hgate hl hw
    exact ⟨m, hm, q, hgrant, hgrant.owner.1⟩
  · have hbegin : (x.state n).Transacts r ((x.state n).hist.countP (Event.isResp r)) (x.state n).phase :=
      ⟨rfl, hr, by simp [hp], fun hidle => absurd hidle hp⟩
    obtain ⟨m, hm, hend⟩ := Execution.transaction_ends hseq hanswers h0 hbegin
    have hne : n ≠ m := by
      rintro rfl
      exact hp hend.phase
    exact ⟨m, Nat.lt_of_le_of_ne hm hne, hend.phase, hend.portIdle rfl, hend.responses⟩
  · obtain ⟨m, hm, hgrant⟩ := Execution.exists_grant_of_served h0 hgate hrelease hserves hw
    exact ⟨m + 1, by omega, hgrant.owner⟩

end Sys2Proof.Machine
end
